-- ==== Sys2Proof/Word.lean ====
section
/-! DEFINITION. The two value types of ECHC: a byte (`00_scope.md` R9) and a duty percentage
(`00_scope.md` R6). -/

namespace Sys2Proof

/-- A byte: 8 bits, unsigned, bit 0 the least significant (R9). Every transfer is one byte (R43). -/
abbrev Byte := BitVec 8

/-- A duty percentage, an integer 0..100 (`DUTY_MAX`, R6). -/
abbrev Duty := Fin 101

/-- A 256-byte snapshot image: exactly `SNAPSHOT_SIZE` bytes, byte `i` being EC register `i`
(R12, R77). -/
abbrev Image := { bs : List Byte // bs.length = 256 }

end Sys2Proof
end

