-- ==== Sys2Proof/Config.lean ====
section
/-! DEFINITION. What an implementation fixes (`00_scope.md` R6, R7) and the free values of the model
(logs 2 and 4). Nothing here changes while the machine runs (`10_state.md` R21). -/

namespace Sys2Proof

/-! ## Constants the source fixes (R6) -/

namespace Config

/-- Number of byte-wide EC registers. -/
abbrev ecRegCount : Nat := 256
/-- Exact byte length of a bulk snapshot. -/
abbrev snapshotSize : Nat := 256
/-- Maximum number of status polls in one `WAITFOR`. -/
abbrev pollLimit : Nat := 100
/-- The canonical duty levels, in the order `IDENTIFY_DUTY` tries them (R150, D32). -/
abbrev canon : List Int := [0, 16, 30, 40, 65, 90, 100]
/-- Tolerance of `IDENTIFY_DUTY`. -/
abbrev snapTol : Nat := 1
/-- Divisor of the smoothing step. -/
abbrev smoothDiv : Int := 2
/-- Smoothing is applied when `target - adjusted` exceeds this. -/
abbrev smoothMargin : Int := 2
/-- Calibration factor of the RPM formula. -/
abbrev rpmK : Nat := 2156220
/-- Raw duty full scale. -/
abbrev dutyRawMax : Nat := 255
/-- The duty forced by the Shutdown Guard. -/
abbrev safeDuty : Duty := 40
/-- The host-command argument that selects the control loop. -/
abbrev autoSelector : Int := -1

end Config

/-! ## Parameters the source leaves without a value (R7) -/

/-- What `EC_READ` does after a timed-out wait (R118, D8). -/
inductive ReadPolicy where
  | soft
  | hard
  deriving DecidableEq, Repr, Inhabited

/-- The OPEN parameters of R7 (D1 to D4): the source gives no number for any of them. -/
structure Board where
  ecDataPort : BitVec 16
  ecScPort : BitVec 16
  ibfBit : Fin 8
  obfBit : Fin 8
  ecCmdRead : Byte
  ecCmdWrite : Byte
  regCpuTemp : Byte
  regGpuTemp : Byte
  regFanDuty : Byte
  regFanRpmHi : Byte
  regFanRpmLo : Byte
  fanDutyWrAddr : Byte
  deriving DecidableEq, Repr, Inhabited

/-- The configuration record of R7: the OPEN parameters and the ones that have a default. -/
structure Config where
  board : Board
  /-- A write ends with a fourth IBF wait (D6). -/
  writeTrailingWait : Bool
  readPolicy : ReadPolicy
  /-- Initial `CS.autoDuty` (D14). -/
  autoDutyInit : Int
  /-- The nonzero exit status (D21). -/
  exitFail : Nat
  deriving DecidableEq, Repr

namespace Config

/-- The constraints of R7 on the OPEN parameters (premise P-CFG). -/
def boardOk (b : Board) : Bool :=
  (b.ecDataPort != b.ecScPort) && (b.ibfBit != b.obfBit)

/-- A configuration that meets the constraints of R7. -/
def ok (c : Config) : Bool := boardOk c.board && (c.exitFail != 0)

/-- The nearest board that meets the constraints: the board itself when it does. -/
def legalise (b : Board) : Board :=
  { b with
    ecScPort := if b.ecScPort = b.ecDataPort then b.ecDataPort + 1 else b.ecScPort
    obfBit := if b.obfBit = b.ibfBit then b.ibfBit + 1 else b.obfBit }

/-- FREE VALUE (log 2): the OPEN parameters of one implementation, before `legalise`. -/
opaque seed : Board

/-- The configuration of the machine at reset: the OPEN parameters are the free value `seed` made
legal, the others have the defaults of R7 (log 2). -/
def atReset : Config :=
  { board := legalise seed
    writeTrailingWait := true
    readPolicy := .soft
    autoDutyInit := 0
    exitFail := 1 }

end Config

/-! ## What the environment answers, and the free values behind it (logs 3 and 4) -/

/-- One move of the EC, an agent of its own (R45). See `Machine/Ec.lean` for what each does. -/
inductive EcMove where
  /-- The reference responder's "consume" (R52). -/
  | consume
  /-- The EC takes the byte (R47) and leaves its answer or its effect for later. -/
  | take
  /-- The EC answers the oldest read it still owes (R48). -/
  | produce
  /-- The EC lets the oldest read it owes go unanswered: a stale output byte stays (R122, V41-25). -/
  | drop
  /-- The EC changes one of its registers on its own (R22, "sense" of R52). -/
  | sense (addr value : Byte)
  deriving DecidableEq, Repr, Inhabited

/-- The three kinds of answer of `SnapRead()` (R54). -/
inductive SnapAnswer where
  | openFail
  | readError
  | bytes (bs : List Byte)
  deriving DecidableEq, Repr, Inhabited

/-- Local time with minute-second precision (R24, R183), carried by a `Transition` event. -/
structure Stamp where
  minute : Fin 60
  second : Fin 60
  deriving DecidableEq, Repr, Inhabited

/-- The eight termination-style signals that make `stop_req` (`STOP_SIGNALS`, R6, R210). -/
inductive StopSignal where
  | sighup | sigint | sigquit | sigpipe | sigalrm | sigterm | sigusr1 | sigusr2
  deriving DecidableEq, Repr, Inhabited

namespace Config

/-- FREE VALUE (log 4): the EC's own moves at one boundary. -/
opaque freeMoves : Nat → List EcMove
/-- FREE VALUE (log 6): the registers a corrupt EC writes at one boundary, with their bytes (R50). -/
opaque freeWrites : Nat → List (Byte × Byte)
/-- FREE VALUE (log 4): a byte that no rule chooses (R46, U3, U4). -/
opaque freeByte : Nat → Byte
/-- FREE VALUE (log 4): the platform's answer to one `SnapRead` (R54, U19). -/
opaque freeSnap : Nat → SnapAnswer
/-- FREE VALUE (log 4): the timestamp of one `Transition` (U16). -/
opaque freeStamp : Nat → Stamp
/-- FREE VALUE (log 4): whether a stop request stands at one step boundary, and by which signal. -/
opaque freeStop : Nat → Option StopSignal

end Config

end Sys2Proof
end

