-- ==== Sys2Proof/Syntax.lean ====
section
/-! DEFINITION. The operations of ECHC (`30_encoding.md` R70), one constructor per row of
`spec/opcode_table.json`, with their operand types, and the host command (R71). Operands whose range
the spec limits are limited by their type where that is possible. -/

namespace Sys2Proof

/-- The two ports of the port space (R40, R41). -/
inductive Port where
  /-- `P_DATA` -/
  | data
  /-- `P_SC`, the status/command port -/
  | sc
  deriving DecidableEq, Repr

/-- The two flags of the status byte (R20, R73). -/
inductive Flag where
  | ibf
  | obf
  deriving DecidableEq, Repr

/-- The operations of ECHC (R70 and the refused command of R206). -/
inductive Instr where
  /-- `ACQUIRE` (R100) -/
  | acquire
  /-- `PORT_IN(port)` (R101) -/
  | portIn (port : Port)
  /-- `PORT_OUT(port, value)` (R102) -/
  | portOut (port : Port) (value : Byte)
  /-- `WAITFOR(flag, expected)` (R110) -/
  | waitfor (flag : Flag) (expected : Bool)
  /-- `EC_WRITE(addr, value)` (R113) -/
  | ecWrite (addr value : Byte)
  /-- `EC_READ(addr)` (R116) -/
  | ecRead (addr : Byte)
  /-- `DUTY_WRITE(percent)` (R121) -/
  | dutyWrite (percent : Int)
  /-- `DUTY_DEC(raw)` (R130) -/
  | dutyDec (raw : Byte)
  /-- `DUTY_ENC(percent)` (R133) -/
  | dutyEnc (percent : Duty)
  /-- `RPM_DEC(hi, lo)` (R135) -/
  | rpmDec (hi lo : Byte)
  /-- `TEMP_DEC(raw)` (R138) -/
  | tempDec (raw : Byte)
  /-- `SNAP_DECODE(image)` (R140) -/
  | snapDecode (image : Image)
  /-- `IDENTIFY_DUTY(x)` (R150) -/
  | identifyDuty (x : Int)
  /-- `THRESHOLD(maxTemp, snappedDuty)` (R153) -/
  | threshold (maxTemp : Byte) (snapped : Int)
  /-- `NEXT_DUTY(cpuTemp, gpuTemp, currentDuty)` (R156) -/
  | nextDuty (cpuTemp gpuTemp : Byte) (currentDuty : Duty)
  /-- `DUMP` (R173) -/
  | dump
  /-- `SETDUTY(n)` (R174) -/
  | setduty (n : Duty)
  /-- `AUTO` (R178) -/
  | auto
  /-- `INVALID`, any other invocation (R80, R206) -/
  | invalid
  /-- `POLLED_SNAPSHOT` (R172) -/
  | polledSnapshot
  /-- `SNAP_READ` (R176) -/
  | snapRead
  /-- `TICK`, one pass of the Control Loop (R180 to R185) -/
  | tick
  /-- `GUARD`, the event `stop_req` by one of the eight signals (R210 to R215) -/
  | guard (signal : StopSignal)
  deriving DecidableEq, Repr

/-- One argument of the process invocation: an integer, or a text that is none (R71, D24). -/
inductive Arg where
  | int (n : Int)
  | text
  deriving DecidableEq, Repr

/-- The decoded host command (R8, R71). -/
inductive HostCommand where
  | dump
  | auto
  | setduty (n : Duty)
  | invalid
  deriving DecidableEq, Repr

/-- Why an operation word is no instruction. -/
inductive DecodeError where
  /-- No byte at all. -/
  | empty
  /-- The first byte is the number of no row of `spec/opcode_table.json`. -/
  | unknownOperation (op : Byte)
  /-- Operand bytes are missing. -/
  | truncated (op : Byte)
  /-- An operand byte has none of the values its operand takes. -/
  | badOperand (op : Byte)
  deriving DecidableEq, Repr

end Sys2Proof
end

