-- ==== Sys2Proof/WellFormed.lean ====
section
/-! DEFINITION. Which terms of `Instr` an operation word can hold. The operand types already limit
ports, flags, bytes, duties and images; what is left are the integers of `DUTY_WRITE`,
`IDENTIFY_DUTY` and `THRESHOLD`, which an operation word holds in 32 bits (log 11; R139 allows any
signed width of 23 bits or more). -/

namespace Sys2Proof

/-- An integer that fits an operand field of an operation word. -/
def fitsOperand (x : Int) : Bool := decide (-2147483648 ≤ x) && decide (x ≤ 2147483647)

/-- A well-formed instruction. -/
def Instr.wellFormed : Instr → Bool
  | .dutyWrite percent => fitsOperand percent
  | .identifyDuty x => fitsOperand x
  | .threshold _ snapped => fitsOperand snapped
  | .acquire | .portIn _ | .portOut _ _ | .waitfor _ _ | .ecWrite _ _ | .ecRead _ => true
  | .dutyDec _ | .dutyEnc _ | .rpmDec _ _ | .tempDec _ | .snapDecode _ => true
  | .nextDuty _ _ _ | .dump | .setduty _ | .auto | .invalid => true
  | .polledSnapshot | .snapRead | .tick | .guard _ => true

end Sys2Proof
end

