-- ==== Sys2Proof/Decode.lean ====
section
/-! DEFINITION. Decoding and encoding. What ECHC itself decodes is the host command
(`30_encoding.md` R71); what it encodes are the bytes of a transaction on the ports (R74 to R76). The
spec gives its operations no instruction word, so the operation words of this file are the model's
own (log 11): the number of the operation's row in `spec/opcode_table.json`, counted from 0, then its
operands in the table's order, one byte each, an integer as four bytes, low byte first, in two's
complement, and an image as its 256 bytes. -/

namespace Sys2Proof

/-! ## The host command (R71) -/

/-- The decoded host command of an invocation (R71, R80): no argument, `-1`, an integer 0..100,
anything else. -/
def decodeInvocation (args : List Arg) : HostCommand :=
  match args with
  | [] => .dump
  | [.int n] =>
    if n = Config.autoSelector then .auto
    else if h : 0 ≤ n ∧ n ≤ 100 then .setduty ⟨n.toNat, by omega⟩
    else .invalid
  | _ => .invalid

/-- An invocation that gives the command (R71); for `INVALID`, one of the many. -/
def encodeInvocation (c : HostCommand) : List Arg :=
  match c with
  | .dump => []
  | .auto => [.int Config.autoSelector]
  | .setduty n => [.int n.val]
  | .invalid => [.text]

/-- The operation a host command is (R70). -/
def HostCommand.instr (c : HostCommand) : Instr :=
  match c with
  | .dump => .dump
  | .auto => .auto
  | .setduty n => .setduty n
  | .invalid => .invalid

/-! ## The bytes of a transaction on the ports (R74 to R76, R119) -/

/-- The bytes an operation sends when no wait times out, each with its port, in order. -/
def sentBytes (c : Config) (i : Instr) : List (Port × Byte) :=
  match i with
  | .portOut p v => [(p, v)]
  | .ecWrite a v => [(.sc, c.board.ecCmdWrite), (.data, a), (.data, v)]
  | .ecRead a => [(.sc, c.board.ecCmdRead), (.data, a)]
  | _ => []

/-- The transaction a sequence of sent bytes is, as the EC understands it (R49). -/
def decodeSent (c : Config) (bs : List (Port × Byte)) : Option Instr :=
  match bs with
  | [(.sc, x), (.data, a), (.data, v)] => if x = c.board.ecCmdWrite then some (.ecWrite a v) else none
  | [(.sc, x), (.data, a)] => if x = c.board.ecCmdRead then some (.ecRead a) else none
  | _ => none

/-- The I/O address of a port (R41). -/
def portAddr (c : Config) (p : Port) : BitVec 16 :=
  match p with
  | .data => c.board.ecDataPort
  | .sc => c.board.ecScPort

/-- The port at an I/O address; any other address has no meaning (R41, R80 (e)). -/
def portAt (c : Config) (a : BitVec 16) : Option Port :=
  if a = c.board.ecDataPort then some .data else if a = c.board.ecScPort then some .sc else none

/-! ## Operand fields of an operation word (log 11) -/

def encodePort (p : Port) : Byte := match p with | .data => 0 | .sc => 1
def encodeFlag (f : Flag) : Byte := match f with | .ibf => 0 | .obf => 1
def encodeBit (b : Bool) : Byte := if b then 1 else 0
def encodeSignal (s : StopSignal) : Byte :=
  match s with
  | .sighup => 0 | .sigint => 1 | .sigquit => 2 | .sigpipe => 3
  | .sigalrm => 4 | .sigterm => 5 | .sigusr1 => 6 | .sigusr2 => 7

/-- The four bytes of an integer operand, low byte first. -/
def encodeInt (x : Int) : List Byte :=
  let w := BitVec.ofInt 32 x
  [w.extractLsb' 0 8, w.extractLsb' 8 8, w.extractLsb' 16 8, w.extractLsb' 24 8]

def decodePort (b : Byte) : Option Port :=
  match b.toNat with | 0 => some .data | 1 => some .sc | _ => none
def decodeFlag (b : Byte) : Option Flag :=
  match b.toNat with | 0 => some .ibf | 1 => some .obf | _ => none
def decodeBit (b : Byte) : Option Bool :=
  match b.toNat with | 0 => some false | 1 => some true | _ => none
def decodeDuty (b : Byte) : Option Duty :=
  if h : b.toNat < 101 then some ⟨b.toNat, h⟩ else none
def decodeSignal (b : Byte) : Option StopSignal :=
  match b.toNat with
  | 0 => some .sighup | 1 => some .sigint | 2 => some .sigquit | 3 => some .sigpipe
  | 4 => some .sigalrm | 5 => some .sigterm | 6 => some .sigusr1 | 7 => some .sigusr2
  | _ => none

/-- The integer of four bytes, low byte first, in two's complement. -/
def decodeInt (b0 b1 b2 b3 : Byte) : Int := (b3 ++ b2 ++ b1 ++ b0 : BitVec 32).toInt

/-! ## Operation words -/

/-- What a decoder answers: the instruction and the bytes after it, or why there is none. -/
abbrev Decoded := Except DecodeError (Instr × List Byte)

/-- An instruction with no operand. -/
def noOperand (i : Instr) (rest : List Byte) : Decoded := .ok (i, rest)

/-- An instruction whose one operand byte `f` reads. -/
def oneOperand {α : Type} (op : Byte) (f : Byte → Option α) (k : α → Instr) (bs : List Byte) : Decoded :=
  match bs with
  | b :: rest => match f b with
    | some x => .ok (k x, rest)
    | none => .error (.badOperand op)
  | [] => .error (.truncated op)

/-- An instruction whose two operand bytes `f` and `g` read. -/
def twoOperands {α β : Type} (op : Byte) (f : Byte → Option α) (g : Byte → Option β) (k : α → β → Instr)
    (bs : List Byte) : Decoded :=
  match bs with
  | b :: b' :: rest => match f b, g b' with
    | some x, some y => .ok (k x y, rest)
    | _, _ => .error (.badOperand op)
  | _ => .error (.truncated op)

/-- `NEXT_DUTY`: two temperature bytes and a duty. -/
def nextDutyOperands (op : Byte) (bs : List Byte) : Decoded :=
  match bs with
  | c :: g :: d :: rest => match decodeDuty d with
    | some cur => .ok (.nextDuty c g cur, rest)
    | none => .error (.badOperand op)
  | _ => .error (.truncated op)

/-- An instruction whose operand is an integer. -/
def intOperand (op : Byte) (k : Int → Instr) (bs : List Byte) : Decoded :=
  match bs with
  | b0 :: b1 :: b2 :: b3 :: rest => .ok (k (decodeInt b0 b1 b2 b3), rest)
  | _ => .error (.truncated op)

/-- `THRESHOLD`: a byte, then an integer. -/
def thresholdOperands (op : Byte) (bs : List Byte) : Decoded :=
  match bs with
  | t :: rest => intOperand op (.threshold t) rest
  | [] => .error (.truncated op)

/-- `SNAP_DECODE`: the 256 bytes of an image. -/
def imageOperand (op : Byte) (bs : List Byte) : Decoded :=
  if h : (bs.take 256).length = 256 then .ok (.snapDecode ⟨bs.take 256, h⟩, bs.drop 256)
  else .error (.truncated op)

/-- The operation word at the front of a byte string, and the rest of the string. Total: every byte
string is an instruction or an error with a name. -/
def decode (bs : List Byte) : Decoded :=
  match bs with
  | [] => .error .empty
  | op :: rest =>
    match op.toNat with
    | 0 => noOperand .acquire rest
    | 1 => oneOperand op decodePort .portIn rest
    | 2 => twoOperands op decodePort some .portOut rest
    | 3 => twoOperands op decodeFlag decodeBit .waitfor rest
    | 4 => twoOperands op some some .ecWrite rest
    | 5 => oneOperand op some .ecRead rest
    | 6 => intOperand op .dutyWrite rest
    | 7 => oneOperand op some .dutyDec rest
    | 8 => oneOperand op decodeDuty .dutyEnc rest
    | 9 => twoOperands op some some .rpmDec rest
    | 10 => oneOperand op some .tempDec rest
    | 11 => imageOperand op rest
    | 12 => intOperand op .identifyDuty rest
    | 13 => thresholdOperands op rest
    | 14 => nextDutyOperands op rest
    | 15 => noOperand .dump rest
    | 16 => oneOperand op decodeDuty .setduty rest
    | 17 => noOperand .auto rest
    | 18 => noOperand .invalid rest
    | 19 => noOperand .polledSnapshot rest
    | 20 => noOperand .snapRead rest
    | 21 => noOperand .tick rest
    | 22 => oneOperand op decodeSignal .guard rest
    | _ => .error (.unknownOperation op)

/-- The bytes of a table word: bits 8k+7..8k of `w` are byte `k`; every bit from `nbits` up is 0, as
far as the longest operation word (257 bytes) reaches. -/
def tableBytes (nbits w : Nat) : List Byte :=
  (List.range 257).map fun k => BitVec.ofNat 8 ((w % 2 ^ nbits) >>> (8 * k))

/-- The instruction this decoder reads from a table word. -/
def decodeTableWord (nbits w : Nat) : Option Instr :=
  match decode (tableBytes nbits w) with
  | .ok (i, _) => some i
  | .error _ => none

/-- The operation word of an instruction. -/
def encode (i : Instr) : List Byte :=
  match i with
  | .acquire => [0]
  | .portIn p => [1, encodePort p]
  | .portOut p v => [2, encodePort p, v]
  | .waitfor f e => [3, encodeFlag f, encodeBit e]
  | .ecWrite a v => [4, a, v]
  | .ecRead a => [5, a]
  | .dutyWrite p => 6 :: encodeInt p
  | .dutyDec r => [7, r]
  | .dutyEnc p => [8, BitVec.ofNat 8 p.val]
  | .rpmDec h l => [9, h, l]
  | .tempDec r => [10, r]
  | .snapDecode img => 11 :: img.val
  | .identifyDuty x => 12 :: encodeInt x
  | .threshold t s => 13 :: t :: encodeInt s
  | .nextDuty c g d => [14, c, g, BitVec.ofNat 8 d.val]
  | .dump => [15]
  | .setduty n => [16, BitVec.ofNat 8 n.val]
  | .auto => [17]
  | .invalid => [18]
  | .polledSnapshot => [19]
  | .snapRead => [20]
  | .tick => [21]
  | .guard s => [22, encodeSignal s]

end Sys2Proof
end

