-- ==== Sys2Proof/Machine/State.lean ====
section
/-! DEFINITION. Everything the spec gives the machine, as plain data (`10_state.md`), with the EC as
the agent that ECHC observes (R22, R23) and the inputs it reads (R10). INVENTORY.md lists every field
with its rule and its reset value. -/

namespace Sys2Proof.Machine

/-! ## Sequencers (R15) -/

/-- The two execution contexts (R221). -/
inductive Ctx where
  | main
  | guard
  deriving DecidableEq, Repr

/-- The handshake sequencer state (R15, R114, R117). -/
inductive Hs where
  | idle
  | wWait1 | wCmd | wWait2 | wAddr | wWait3 | wData | wWait4
  | rWait1 | rCmd | rWait2 | rAddr | rWait3 | rData
  deriving DecidableEq, Repr

/-- The sequencer and latches of the EC Protocol Engine, one set per context (R14, R15). -/
structure Latches where
  hs : Hs
  /-- The register address of the operation in progress. -/
  addrL : Byte
  /-- The data byte of a write in progress. -/
  dataL : Byte
  /-- The byte returned by a read. -/
  resL : Byte
  /-- Unsuccessful polls so far in the `WAITFOR` in progress, 0..100. -/
  pollN : Nat
  /-- The last wait of the soft read in progress timed out: in a wait state its event is not yet emitted,
  in `R_DATA` the byte to come is a draw (R118, log 13). -/
  late : Bool
  deriving DecidableEq, Repr

/-- The information of a `TimeoutError` (R83): the flag, the value and the port that was polled. -/
structure TimeoutInfo where
  port : Port
  flag : Flag
  expected : Bool
  deriving DecidableEq, Repr

/-- The three ways a `SNAP_READ` fails (R176). -/
inductive SnapFailure where
  /-- The read failed after a successful open: soft (R204). -/
  | readError
  /-- The answer has the length given, which is not 256: soft (R205). -/
  | sizeMismatch (len : Nat)
  /-- The interface could not be opened: fatal (R204). -/
  | openFail
  deriving DecidableEq, Repr

/-- The top-level mode (R15, R170). -/
inductive Top where
  | start | dump | setduty | auto | exit
  deriving DecidableEq, Repr

/-- The registers a polled snapshot reads, in the order of R172: the index of the polled read. -/
inductive Polled where
  | fanDuty | rpmHi | rpmLo | cpuTemp | gpuTemp
  deriving DecidableEq, Repr

/-- The four decodes of a polled snapshot, in the order of R172: the field a decode gives. -/
inductive Field where
  | duty | rpm | cpuTemp | gpuTemp
  deriving DecidableEq, Repr

/-- The position inside the mode (R15). The L_ positions are those of R180; the others name the
boundaries between the steps of R16 inside a mode (log 13). -/
inductive Phase where
  /-- `T_AUTO` before the start-up of R178. -/
  | entry
  | lHead
  | lSnap
  /-- Inside `L_SNAP`: a full image is in `SNAP`, not yet decoded. -/
  | lDecode
  /-- Inside `L_SNAP`: the read failed, its event is not yet emitted. -/
  | lSnapFailed (e : SnapFailure)
  | lDecide
  | lWrite
  /-- Inside `L_WRITE`: the write returned `Ok`, its transition is not yet logged. -/
  | lWritten
  /-- Inside `L_WRITE`: the write timed out, its event is not yet emitted. -/
  | lWriteFailed (i : TimeoutInfo)
  | lSleep
  /-- `T_SETDUTY`: the duty write. -/
  | osWrite
  /-- A one-shot mode: the polled read in progress (R172). -/
  | osPoll (r : Polled)
  /-- A one-shot mode: an operation ended in a fatal `TimeoutError`, not yet logged. -/
  | osFailed (i : TimeoutInfo)
  /-- A one-shot mode: all five bytes are read; the decode in turn (R172). -/
  | osDecode (f : Field)
  /-- A one-shot mode: the fields are decoded, the dump not yet emitted. -/
  | osDump
  deriving DecidableEq, Repr

/-- The position inside the handler while `g = G_ACTIVE` (R212). -/
inductive GuardPos where
  /-- About to clear the Running Flag. -/
  | clear
  /-- The forced write. -/
  | write
  /-- The forced write timed out: R214. -/
  | failed (i : TimeoutInfo)
  deriving DecidableEq, Repr

/-- The guard context `g` (R15, R212). -/
inductive GuardState where
  | idle
  | active (pos : GuardPos)
  | done
  deriving DecidableEq, Repr

/-! ## Data registers (R11 to R13, R172) -/

/-- The Control State, carried between ticks (R11, 90_conflicts.md C8). -/
structure ControlState where
  cpuTemp : Byte
  gpuTemp : Byte
  /-- The duty last decoded from a snapshot. -/
  curDuty : Duty
  /-- The last duty the loop itself selected and wrote. -/
  autoDuty : Int
  deriving DecidableEq, Repr

/-- The decoded-fields record `F` (R13). -/
structure Fields where
  duty : Duty
  rpm : Nat
  cpuTemp : Byte
  gpuTemp : Byte
  deriving DecidableEq, Repr

/-- The five bytes of a polled snapshot: `bd`, `bh`, `bl`, `bc`, `bg` (R172). -/
structure Raws where
  bd : Byte
  bh : Byte
  bl : Byte
  bc : Byte
  bg : Byte
  deriving DecidableEq, Repr

/-! ## Results, errors and events -/

/-- The error kinds with their information (R200). -/
inductive Err where
  /-- E1 -/
  | permission
  /-- E2 -/
  | timeout (i : TimeoutInfo)
  /-- E3, a failed read (`false`) or a failed open (`true`) -/
  | io (opening : Bool)
  /-- E4 -/
  | sizeMismatch (len : Nat)
  /-- E5 by `DUTY_WRITE`, with the offending value -/
  | invalidArgument (value : Int)
  /-- E5 at command decode, with the offending invocation -/
  | invalidInvocation (args : List Arg)
  deriving DecidableEq, Repr

/-- The result of `THRESHOLD` and `NEXT_DUTY`, a tagged value (R8, R158). -/
inductive Target where
  | noChange
  | duty (n : Duty)
  deriving DecidableEq, Repr

/-- What an issued operation returned to its caller (log 17). -/
inductive Ret where
  | none
  | ok
  | err (e : Err)
  | byte (b : Byte)
  | int (x : Int)
  | target (t : Target)
  | fields (f : Fields)
  | image (img : Image)
  deriving DecidableEq, Repr

/-- The events of `LOG` (R24). -/
inductive Event where
  | timeoutLogged (ctx : Ctx) (i : TimeoutInfo)
  | transition (cpuTemp gpuTemp : Byte) (duty : Duty) (time : Stamp)
  | sizeMismatch (len : Nat)
  | snapReadError
  | snapOpenError
  | dump (duty : Duty) (rpm : Nat) (cpuTemp gpuTemp : Byte)
  | usageError
  | permissionDenied
  deriving DecidableEq, Repr

/-- One port access, with the byte that crossed (log 18). -/
inductive Access where
  | input (p : Port) (b : Byte)
  | output (p : Port) (b : Byte)
  deriving DecidableEq, Repr

/-! ## The EC (R22, R23, R45 to R52) -/

/-- The EC's register file: pairs of address and byte (see `Machine/Mem.lean` for its canonical form). -/
abbrev Mem := List Host.Cell

/-- The EC's position in a transaction (R23, R52). -/
inductive EcPhase where
  | idle
  | rdAddr
  | wrAddr
  | wrData (addr : Byte)
  deriving DecidableEq, Repr

/-- The EC as ECHC can observe it. -/
structure Ec where
  regs : Mem
  ibf : Bool
  obf : Bool
  /-- The input buffer's byte, and whether it came through the command port. -/
  inb : Byte
  inbCmd : Bool
  outb : Byte
  ph : EcPhase
  /-- Addresses of reads consumed and not yet answered, oldest first (R48, log 5). -/
  owed : List Byte
  /-- The EC's behaviour is undefined from here on (R50). -/
  corrupt : Bool
  /-- This EC is the reference responder of R52; otherwise any EC of the contract R46 to R51 (log 26). -/
  reference : Bool
  deriving DecidableEq, Repr

/-! ## Inputs (R10, logs 3 and 4) -/

/-- What the EC, the platform and the signals do next; a used-up list is continued by the free values
of `Config`, indexed by `drawn`. -/
structure Env where
  /-- The EC's own moves at the boundary after each step of ECHC (R45). -/
  moves : List (List EcMove)
  /-- Bytes that no rule chooses. -/
  bytes : List Byte
  /-- Answers of `SnapRead`. -/
  snaps : List SnapAnswer
  /-- Timestamps. -/
  times : List Stamp
  /-- At each boundary where a stop request can be accepted: whether one stands there. -/
  stops : List (Option StopSignal)
  /-- How many answers have been taken so far. -/
  drawn : Nat
  deriving DecidableEq, Repr

/-! ## The state -/

/-- The machine. -/
structure State where
  /-- The parameters of R7; no step writes them (R21). -/
  cfg : Config
  invocation : List Arg
  priv : Bool
  env : Env
  /-- The model's issue port (log 11). -/
  issue : Option (List Byte)
  cmd : HostCommand
  top : Top
  phase : Phase
  main : Latches
  g : GuardState
  guard : Latches
  /-- The Running Flag (R17). -/
  run : Bool
  acquired : Bool
  armed : Bool
  guardTaken : Bool
  /-- Whether the Control State exists (R11, log 22). -/
  csLive : Bool
  cs : ControlState
  /-- The duty a tick has decided to write (R14). -/
  pending : Duty
  snap : Image
  fields : Fields
  raws : Raws
  log : List Event
  exit : Option Nat
  ec : Ec
  /-- Every port access so far (log 18). -/
  trace : List Access
  /-- What the last issued operation returned (log 17). -/
  ret : Ret
  deriving DecidableEq, Repr

/-! ## How a step stops -/

/-- The faults. -/
inductive Fault where
  /-- Raised by `PORT_IN` and `PORT_OUT` with `acquired = false` (R104, U1). Safe: the spec says the
  step is a fault, and no byte is transferred. -/
  | notAcquired
  /-- Raised by every operation and every step once `EXIT` is written: no context takes any further
  step (R25, log 16). Safe: the hardware does nothing there. -/
  | exited
  deriving DecidableEq, Repr

/-- The refusals. -/
inductive Refusal where
  /-- Raised by an arm of `exec` whose instruction has no meaning yet; no arm of this model is one.
  Safe. -/
  | notModelled (mnemonic : String)
  /-- Raised by `step` when the byte string on the issue port is no operation word (log 11). Safe:
  the hardware has no issue port. -/
  | noOperation (e : DecodeError)
  deriving DecidableEq, Repr

/-! ## Reset (R27, R240) -/

/-- The latches of one context at reset (R27; log 9 for the bytes, `pollN` and `late`). -/
def Latches.reset : Latches := { hs := .idle, addrL := 0, dataL := 0, resL := 0, pollN := 0, late := false }

/-- The EC at the start of a run: whatever it holds; the values here are the model's (log 7). -/
def Ec.reset : Ec :=
  { regs := [], ibf := false, obf := false, inb := 0, inbCmd := false, outb := 0, ph := .idle,
    owed := [], corrupt := false, reference := false }

/-- No answer is fixed in advance: every answer is a free value (log 4). -/
def Env.reset : Env := { moves := [], bytes := [], snaps := [], times := [], stops := [], drawn := 0 }

/-- The snapshot buffer at reset (log 9). -/
def Image.reset : Image := ⟨List.replicate 256 0, List.length_replicate⟩

/-- The machine at the start of a run (R27). The values of `phase`, `cmd`, `run`, `cs`, `pending`,
`snap`, `fields`, `raws` and the latch bytes are the model's (log 9), the inputs `invocation` and
`priv` too (log 10). -/
def State.reset : State :=
  { cfg := Config.atReset
    invocation := []
    priv := false
    env := Env.reset
    issue := none
    cmd := .dump
    top := .start
    phase := .entry
    main := Latches.reset
    g := .idle
    guard := Latches.reset
    run := false
    acquired := false
    armed := false
    guardTaken := false
    csLive := false
    cs := { cpuTemp := 0, gpuTemp := 0, curDuty := 0, autoDuty := 0 }
    pending := 0
    snap := Image.reset
    fields := { duty := 0, rpm := 0, cpuTemp := 0, gpuTemp := 0 }
    raws := { bd := 0, bh := 0, bl := 0, bc := 0, bg := 0 }
    log := []
    exit := none
    ec := Ec.reset
    trace := []
    ret := .none }

end Sys2Proof.Machine
end

