-- ==== Sys2Proof/Machine/Mem.lean ====
section
/-! DEFINITION. The EC register file as a list of cells in one canonical form: addresses strictly
rising and below 256, and no entry equal to what an unlisted register reads as. An address is a byte,
so every address exists (`20_memory.md` R42, D35). -/

namespace Sys2Proof.Machine

/-- What a register that no cell lists reads as (log 7). -/
def Mem.unlisted : Byte := 0

/-- The byte at an address. -/
def Mem.lookup (m : Mem) (a : Nat) : Byte :=
  match m with
  | [] => Mem.unlisted
  | (k, v) :: rest => if k = a then v else Mem.lookup rest a

/-- The value of one EC register. -/
def Mem.read (m : Mem) (a : Byte) : Byte := Mem.lookup m a.toNat

/-- The cells with the byte at an address replaced, in canonical form. -/
def Mem.put (m : Mem) (a : Nat) (v : Byte) : Mem :=
  match m with
  | [] => if v = Mem.unlisted then [] else [(a, v)]
  | (k, w) :: rest =>
    if a < k then (if v = Mem.unlisted then (k, w) :: rest else (a, v) :: (k, w) :: rest)
    else if a = k then (if v = Mem.unlisted then rest else (a, v) :: rest)
    else (k, w) :: Mem.put rest a v

/-- The register file with one register written. -/
def Mem.write (m : Mem) (a v : Byte) : Mem := Mem.put m a.toNat v

/-- The canonical form from an address on. -/
def Mem.wfFrom (lo : Nat) (m : Mem) : Bool :=
  match m with
  | [] => true
  | (k, v) :: rest => decide (lo ≤ k) && decide (k < 256) && (v != Mem.unlisted) && Mem.wfFrom (k + 1) rest

/-- The canonical form holds. -/
def Mem.wf (m : Mem) : Bool := Mem.wfFrom 0 m

/-- The image of the whole register file at one instant (R55, R77). -/
def Mem.image (m : Mem) : Image := ⟨(List.range 256).map (Mem.lookup m), by simp⟩

end Sys2Proof.Machine
end

