-- ==== Sys2Proof/Machine/Flags.lean ====
section
/-! DEFINITION. The two flags of the status byte (`30_encoding.md` R73, R78 (a)); ECHC has no flag
that an operation computes. -/

namespace Sys2Proof.Machine

/-- The position of a flag in the status byte (R7, R73). -/
def flagBit (c : Config) (f : Flag) : Fin 8 :=
  match f with
  | .ibf => c.board.ibfBit
  | .obf => c.board.obfBit

/-- The value of a flag in a status byte: `(status >> bit) & 1` (R78 (a)). -/
def flagValue (c : Config) (f : Flag) (status : Byte) : Bool :=
  (status >>> (flagBit c f).val) &&& 1#8 == 1#8

/-- A byte with one bit set to a value. -/
def withBit (b : Byte) (i : Fin 8) (v : Bool) : Byte :=
  if v then b ||| (1#8 <<< i.val) else b &&& ~~~(1#8 <<< i.val)

/-- The status byte the EC presents: IBF and OBF in their places, the other six bits as the EC
pleases (R46, R73), 0 for the reference responder (R52); the whole byte as it pleases once it is corrupt
(R50). -/
def statusByte (c : Config) (e : Ec) (free : Byte) : Byte :=
  if e.corrupt then free
  else withBit (withBit (if e.reference then 0 else free) (flagBit c .ibf) e.ibf) (flagBit c .obf) e.obf

end Sys2Proof.Machine
end

