-- ==== Sys2Proof/Machine/Operands.lean ====
section
/-! DEFINITION. How operands are assembled (`30_encoding.md` R77, R78; `44_control.md` R172). -/

namespace Sys2Proof.Machine

/-- Byte `a` of a snapshot image: the value of EC register `a` (R12, R77). -/
def imageAt (img : Image) (a : Byte) : Byte :=
  img.val[a.toNat]'(by have := a.isLt; have := img.property; omega)

/-- The raw fan-speed count `(hi << 8) | lo`, high byte first (R44, R78 (b)). -/
def rawCombined (hi lo : Byte) : Nat := (hi.toNat <<< 8) ||| lo.toNat

/-- The hotter of the two sensors (R78 (f), R152). -/
def maxTemp (cpu gpu : Byte) : Byte := if cpu.toNat < gpu.toNat then gpu else cpu

/-- The register a polled read addresses (R172). -/
def polledReg (c : Config) (r : Polled) : Byte :=
  match r with
  | .fanDuty => c.board.regFanDuty
  | .rpmHi => c.board.regFanRpmHi
  | .rpmLo => c.board.regFanRpmLo
  | .cpuTemp => c.board.regCpuTemp
  | .gpuTemp => c.board.regGpuTemp

/-- The polled read after this one (R172, D13). -/
def nextPolled (r : Polled) : Option Polled :=
  match r with
  | .fanDuty => some .rpmHi
  | .rpmHi => some .rpmLo
  | .rpmLo => some .cpuTemp
  | .cpuTemp => some .gpuTemp
  | .gpuTemp => none

/-- The bytes of a polled snapshot with one of them read (R172). -/
def setRaw (r : Polled) (b : Byte) (w : Raws) : Raws :=
  match r with
  | .fanDuty => { w with bd := b }
  | .rpmHi => { w with bh := b }
  | .rpmLo => { w with bl := b }
  | .cpuTemp => { w with bc := b }
  | .gpuTemp => { w with bg := b }

/-- The decode after this one (R172). -/
def nextField (f : Field) : Option Field :=
  match f with
  | .duty => some .rpm
  | .rpm => some .cpuTemp
  | .cpuTemp => some .gpuTemp
  | .gpuTemp => none

end Sys2Proof.Machine
end

