-- ==== Sys2Proof/Machine/Ec.lean ====
section
/-! DEFINITION. The EC as an agent: what its own moves and ECHC's port accesses do to it
(`20_memory.md` R45 to R52; logs 5 and 6). -/

namespace Sys2Proof.Machine

/-- What the reference responder does with the data byte of a write: the addressed register takes it,
and so does the duty read-back register when the address is the duty write's (R52). -/
def Ec.store (c : Config) (a v : Byte) (m : Mem) : Mem :=
  let m1 := m.write a v
  if a = c.board.fanDutyWrAddr then m1.write c.board.regFanDuty v else m1

/-- A command byte is consumed: R52 for the reference responder. For any other EC, DESIGN CHOICE (log 6): a
byte that is neither command, whose meaning `30_encoding.md` R74 leaves outside the spec (U7), makes it
corrupt too, and a byte that is both commands (D3 lets them be equal for such an EC) is taken as the read,
in the order of R52. Safe, but the order is unsafe on a board where they are equal. -/
def Ec.consumeCommand (c : Config) (e : Ec) : Ec :=
  if e.ph ≠ .idle then { e with corrupt := true }
  else if e.inb = c.board.ecCmdRead then { e with ph := .rdAddr }
  else if e.inb = c.board.ecCmdWrite then { e with ph := .wrAddr }
  else { e with corrupt := true }

/-- An address or data byte is consumed by an EC that answers and applies at once (R52). A byte outside any
transaction makes it corrupt: R52 for the reference responder; DESIGN CHOICE (log 6) for any other EC,
of which R49 and R50 say nothing there. Safe. -/
def Ec.consumeData (c : Config) (e : Ec) : Ec :=
  match e.ph with
  | .rdAddr => { e with outb := e.regs.read e.inb, obf := true, ph := .idle }
  | .wrAddr => { e with ph := .wrData e.inb }
  | .wrData a => { e with regs := Ec.store c a e.inb e.regs, ph := .idle }
  | .idle => { e with corrupt := true }

/-- An address or data byte is consumed by an EC that answers later (R48) and applies nothing for now
(R115 (e), U8). A byte outside any transaction makes it corrupt: DESIGN CHOICE (log 6), since R49 and R50 say
nothing of it. Safe. -/
def Ec.takeData (e : Ec) : Ec :=
  match e.ph with
  | .rdAddr => { e with owed := e.owed ++ [e.inb], ph := .idle }
  | .wrAddr => { e with ph := .wrData e.inb }
  | .wrData _ => { e with ph := .idle }
  | .idle => { e with corrupt := true }

/-- A register that the reference responder's "sense" changes (R52). -/
def Ec.sensed (c : Config) (a : Byte) : Bool :=
  decide (a = c.board.regCpuTemp) || decide (a = c.board.regGpuTemp) ||
  decide (a = c.board.regFanRpmHi) || decide (a = c.board.regFanRpmLo)

/-- One move of the EC. Consuming clears IBF (R47) and is possible while IBF is set and the EC is not
corrupt (R52); an answer sets OBF (R48). The reference responder only consumes, and senses its four
registers (R52). -/
def Ec.move (c : Config) (m : EcMove) (e : Ec) : Ec :=
  match m with
  | .consume =>
    if e.ibf && !e.corrupt then
      if e.inbCmd then Ec.consumeCommand c { e with ibf := false }
      else Ec.consumeData c { e with ibf := false }
    else e
  | .take =>
    if e.ibf && !e.corrupt && !e.reference then
      if e.inbCmd then Ec.consumeCommand c { e with ibf := false }
      else Ec.takeData { e with ibf := false }
    else e
  | .produce =>
    match e.reference, e.owed with
    | false, a :: rest => { e with outb := e.regs.read a, obf := true, owed := rest }
    | _, _ => e
  | .drop =>
    match e.reference, e.owed with
    | false, _ :: rest => { e with owed := rest }
    | _, _ => e
  | .sense a v => if e.reference && !Ec.sensed c a then e else { e with regs := e.regs.write a v }

/-- Several moves, in order. -/
def Ec.moves (c : Config) (ms : List EcMove) (e : Ec) : Ec :=
  ms.foldl (fun e m => Ec.move c m e) e

/-- Several registers written, in order. -/
def Ec.scatter (ws : List (Byte × Byte)) (m : Mem) : Mem :=
  ws.foldl (fun m w => m.write w.1 w.2) m

/-- The EC's own steps at one boundary: its moves, and, while it is corrupt, writes of which nothing is
known (R50; the reference responder makes none, R52). -/
def Ec.turn (c : Config) (ms : List EcMove) (ws : List (Byte × Byte)) (e : Ec) : Ec :=
  let e1 := Ec.moves c ms e
  if e1.corrupt && !e1.reference then { e1 with regs := Ec.scatter ws e1.regs } else e1

/-- A byte written to a port: it fills the input buffer and sets IBF (R47, R51). A byte written while
IBF is set makes the EC corrupt (R50, R52); so does a command byte inside an unfinished transaction
(R50), which the reference responder notices only when it consumes it (R52). -/
def Ec.receive (p : Port) (v : Byte) (e : Ec) : Ec :=
  if e.ibf then { e with corrupt := true }
  else
    { e with
      inb := v
      inbCmd := decide (p = .sc)
      ibf := true
      corrupt := e.corrupt || (!e.reference && decide (p = .sc) && decide (e.ph ≠ .idle)) }

/-- A transaction abandoned part-way (R50, R115 (a)); the reference responder waits on (R52). -/
def Ec.abandon (e : Ec) : Ec := { e with corrupt := e.corrupt || !e.reference }

end Sys2Proof.Machine
end

