-- ==== Sys2Proof/Machine/Ops.lean ====
section
/-! DEFINITION. The named operations every meaning is built from: sequencing, the inputs, the port
accesses, the log, the exit, and the two exceptional transfers of control: a fatal error
(`60_exceptions.md` R201, R202, R207) and the entry into and the return from the Shutdown Guard
(R211, R213, R215). -/

namespace Sys2Proof.Machine

/-! ## Sequencing -/

/-- An operation's answer: a value and the state after it, or a stop. -/
abbrev Res (α : Type) := Host.Outcome (α × State) Fault Refusal

/-- One operation after another. -/
def andThen {α β : Type} (r : Res α) (f : α → State → Res β) : Res β :=
  match r with
  | .next (a, s) => f a s
  | .fault e => .fault e
  | .refused e => .refused e

/-- The `op()?` of the spec's notation (R9): an error is returned at once. -/
def orReturn {α β ε : Type} (r : Res (Except ε α)) (f : α → State → Res (Except ε β)) :
    Res (Except ε β) :=
  andThen r fun x s =>
    match x with
    | .ok a => f a s
    | .error e => .next (.error e, s)

/-- The meaning of an issued operation: nothing once `EXIT` is written (R25); otherwise the operation,
with its result left for the caller (log 17). -/
def perform (f : State → Res Ret) (s : State) : Host.Outcome State Fault Refusal :=
  match s.top with
  | .exit => .fault .exited
  | _ =>
    match f s with
    | .next (r, t) => .next { t with ret := r }
    | .fault e => .fault e
    | .refused e => .refused e

/-! ## Latches of a context (R14) -/

/-- The sequencer and latches of a context. -/
def latches (ctx : Ctx) (s : State) : Latches :=
  match ctx with
  | .main => s.main
  | .guard => s.guard

/-- The state with the sequencer and latches of a context replaced. -/
def setLatches (ctx : Ctx) (l : Latches) (s : State) : State :=
  match ctx with
  | .main => { s with main := l }
  | .guard => { s with guard := l }

/-! ## Inputs (logs 3 and 4) -/

/-- The next answer: the head of its list, or the free value once the list is used up. -/
def headOr {α : Type} (l : List α) (free : α) : α :=
  match l with
  | x :: _ => x
  | [] => free

/-- A byte no rule chooses, and the state that has taken it. -/
def drawByte (s : State) : Byte × State :=
  (headOr s.env.bytes (Config.freeByte s.env.drawn),
   { s with env := { s.env with bytes := s.env.bytes.tail, drawn := s.env.drawn + 1 } })

/-- The platform's answer to a `SnapRead` (R54). -/
def drawSnap (s : State) : SnapAnswer × State :=
  (headOr s.env.snaps (Config.freeSnap s.env.drawn),
   { s with env := { s.env with snaps := s.env.snaps.tail, drawn := s.env.drawn + 1 } })

/-- The timestamp of a `Transition` (U16). -/
def drawStamp (s : State) : Stamp × State :=
  (headOr s.env.times (Config.freeStamp s.env.drawn),
   { s with env := { s.env with times := s.env.times.tail, drawn := s.env.drawn + 1 } })

/-- Whether a stop request stands at this step boundary (R210). -/
def drawStop (s : State) : Option StopSignal × State :=
  (headOr s.env.stops (Config.freeStop s.env.drawn),
   { s with env := { s.env with stops := s.env.stops.tail, drawn := s.env.drawn + 1 } })

/-- The EC's own steps at the boundary after a step of ECHC: any finite sequence of its moves (R45, R57). -/
def ecAdvance (s : State) : State :=
  { s with
    ec := Ec.turn s.cfg (headOr s.env.moves (Config.freeMoves s.env.drawn)) (Config.freeWrites s.env.drawn) s.ec
    env := { s.env with moves := s.env.moves.tail, drawn := s.env.drawn + 1 } }

/-- A step of ECHC, and the EC's own steps after it. -/
def withTurn {α : Type} (r : Res α) : Res α := andThen r fun a t => .next (a, ecAdvance t)

/-! ## Outputs -/

/-- `emit` (R9, R24). -/
def emit (e : Event) (s : State) : State := { s with log := s.log ++ [e] }

/-- A port access is made (log 18). -/
def record (a : Access) (s : State) : State := { s with trace := s.trace ++ [a] }

/-- `EXIT <- code; top <- T_EXIT` (R25); the Control State is discarded (R11, R186). -/
def writeExit (code : Nat) (s : State) : State :=
  { s with exit := some code, top := .exit, csLive := false }

/-! ## Port accesses (R46, R51, R101, R102, R104) -/

/-- One 8-bit read of a port: the status byte, or the EC's output byte, which empties the output
buffer (R51, log 20). A read of `P_DATA` with OBF clear gives any byte (R46, U3), and so does one after
an OBF wait that timed out, where `settled` is false (R118 (b), R254). -/
def readPort (p : Port) (settled : Bool) (s : State) : Res Byte :=
  if s.acquired then
    match p with
    | .sc =>
      let b := statusByte s.cfg s.ec (drawByte s).1
      .next (b, record (.input .sc b) (drawByte s).2)
    | .data =>
      let full := s.ec.obf && !s.ec.corrupt
      let t := if full then { s with ec := { s.ec with obf := false } } else s
      if full && settled then .next (s.ec.outb, record (.input .data s.ec.outb) t)
      else .next ((drawByte t).1, record (.input .data (drawByte t).1) (drawByte t).2)
  else .fault .notAcquired

/-- `PortIn(port)` (R101). -/
def portIn (p : Port) (s : State) : Res Byte := readPort p true s

/-- `PortOut(port, value)`: one 8-bit write of a port (R102). -/
def portOut (p : Port) (v : Byte) (s : State) : Res Unit :=
  if s.acquired then .next ((), record (.output p v) { s with ec := Ec.receive p v s.ec })
  else .fault .notAcquired

/-! ## The bulk read (R54, R55, R176) -/

/-- One bulk read. An answer of 256 bytes is the register file at this instant (R55, log 8); it
changes nothing in the EC (R62). -/
def snapRead (s : State) : Except SnapFailure Image × State :=
  let d := drawSnap s
  match d.1 with
  | .openFail => (.error .openFail, d.2)
  | .readError => (.error .readError, d.2)
  | .bytes bs =>
    if bs.length = Config.snapshotSize then (.ok d.2.ec.regs.image, { d.2 with snap := d.2.ec.regs.image })
    else (.error (.sizeMismatch bs.length), d.2)

/-! ## Errors and the stop request -/

/-- The kind of a snapshot failure (R176, R200). -/
def SnapFailure.err (e : SnapFailure) : Err :=
  match e with
  | .readError => .io false
  | .sizeMismatch n => .sizeMismatch n
  | .openFail => .io true

/-- A fatal error: its event is logged, `EXIT <- EXIT_FAIL`, `top <- T_EXIT` (R201, R202, R206, R214). -/
def fatal (e : Event) (s : State) : State := writeExit s.cfg.exitFail (emit e s)

/-- A stop request has an effect now (R211). -/
def stopAcceptable (s : State) : Bool :=
  s.armed && !s.guardTaken && decide (s.top ≠ .exit)

/-- Entry into the Shutdown Guard: nothing is saved and nothing of MAIN is changed (R211, R213). -/
def enterGuard (s : State) : State := { s with guardTaken := true, g := .active .clear }

/-- Return from the Shutdown Guard: nothing is restored (R215). -/
def leaveGuard (s : State) : State := { s with g := .done }

end Sys2Proof.Machine
end

