-- ==== Sys2Proof/Machine/Codec.lean ====
section
/-! DEFINITION. The Register Decoder and data codec (`42_codec.md`). Pure functions on exact integers
(R139). -/

namespace Sys2Proof.Machine

/-- `DUTY_DEC`: `round(raw * 100 / 255)` in its exact integer form (R130). -/
def dutyDec (raw : Byte) : Duty :=
  ⟨(200 * raw.toNat + 255) / 510, by have := raw.isLt; omega⟩

/-- `DUTY_ENC`: `floor(percent * 255 / 100)` (R133, D9). -/
def dutyEnc (percent : Duty) : Byte := BitVec.ofNat 8 (percent.val * Config.dutyRawMax / 100)

/-- `RPM_DEC`: `floor(2156220 / c)`, and 0 for `c = 0` (R135). -/
def rpmDec (hi lo : Byte) : Nat :=
  if rawCombined hi lo > 0 then Config.rpmK / rawCombined hi lo else 0

/-- `TEMP_DEC`: the byte itself, unsigned (R138). -/
def tempDec (raw : Byte) : Byte := raw

/-- The four decodes applied to the five bytes (R140, R172). -/
def decodeRaws (w : Raws) : Fields :=
  { duty := dutyDec w.bd, rpm := rpmDec w.bh w.bl, cpuTemp := tempDec w.bc, gpuTemp := tempDec w.bg }

/-- One of the four decodes of a polled snapshot, into its field (R172). -/
def decodeField (f : Field) (w : Raws) (x : Fields) : Fields :=
  match f with
  | .duty => { x with duty := dutyDec w.bd }
  | .rpm => { x with rpm := rpmDec w.bh w.bl }
  | .cpuTemp => { x with cpuTemp := tempDec w.bc }
  | .gpuTemp => { x with gpuTemp := tempDec w.bg }

/-- `SNAP_DECODE` (R140): the fields at the five parameter addresses of an image. -/
def snapDecode (c : Config) (img : Image) : Fields :=
  decodeRaws
    { bd := imageAt img c.board.regFanDuty
      bh := imageAt img c.board.regFanRpmHi
      bl := imageAt img c.board.regFanRpmLo
      bc := imageAt img c.board.regCpuTemp
      bg := imageAt img c.board.regGpuTemp }

/-- `DUTY_DEC(raw)` (R130). -/
def execDutyDec (raw : Byte) (s : State) : Host.Outcome State Fault Refusal :=
  perform (fun s => .next (.int (dutyDec raw).val, ecAdvance s)) s

/-- `DUTY_ENC(percent)` (R133). -/
def execDutyEnc (percent : Duty) (s : State) : Host.Outcome State Fault Refusal :=
  perform (fun s => .next (.byte (dutyEnc percent), ecAdvance s)) s

/-- `RPM_DEC(hi, lo)` (R135). -/
def execRpmDec (hi lo : Byte) (s : State) : Host.Outcome State Fault Refusal :=
  perform (fun s => .next (.int (rpmDec hi lo), ecAdvance s)) s

/-- `TEMP_DEC(raw)` (R138): zero-extended. -/
def execTempDec (raw : Byte) (s : State) : Host.Outcome State Fault Refusal :=
  perform (fun s => .next (.int (tempDec raw).toNat, ecAdvance s)) s

/-- `SNAP_DECODE(image)` (R140). -/
def execSnapDecode (img : Image) (s : State) : Host.Outcome State Fault Refusal :=
  perform (fun s => .next (.fields (snapDecode s.cfg img), ecAdvance s)) s

end Sys2Proof.Machine
end

