-- ==== Sys2Proof/Machine/PortChannel.lean ====
section
/-! DEFINITION. The Port Channel: `ACQUIRE`, `PORT_IN`, `PORT_OUT` (`40_port_channel.md`). -/

namespace Sys2Proof.Machine

/-- `ACQUIRE` reads the input `priv` and sets `acquired`; no port access (R100). -/
def acquire (s : State) : Except Err Unit × State :=
  if s.priv then (.ok (), { s with acquired := true }) else (.error .permission, s)

/-- What a caller sees of a result without a value. -/
def retUnit (r : Except Err Unit) : Ret :=
  match r with
  | .ok _ => .ok
  | .error e => .err e

/-- `ACQUIRE` (R100). -/
def execAcquire (s : State) : Host.Outcome State Fault Refusal :=
  perform (fun s => .next (retUnit (acquire s).1, ecAdvance (acquire s).2)) s

/-- `PORT_IN(port)` (R101, R104). -/
def execPortIn (p : Port) (s : State) : Host.Outcome State Fault Refusal :=
  perform (fun s => andThen (withTurn (portIn p s)) fun b t => .next (.byte b, t)) s

/-- `PORT_OUT(port, value)` (R102, R104). -/
def execPortOut (p : Port) (v : Byte) (s : State) : Host.Outcome State Fault Refusal :=
  perform (fun s => andThen (withTurn (portOut p v s)) fun _ t => .next (.ok, t)) s

end Sys2Proof.Machine
end

