-- ==== Sys2Proof/Machine/Handshake.lean ====
section
/-! DEFINITION. The EC Protocol Engine (`41_handshake.md`): `WAITFOR`, `EC_WRITE`, `EC_READ`,
`DUTY_WRITE` as whole operations, in the order of the spec's pseudocode. Their step-by-step form, the
sequencer tables of R114 and R117, is in `Machine/Sequencer.lean`; both are built from `pollOnce`,
`portIn` and `portOut`. -/

namespace Sys2Proof.Machine

/-! ## WAITFOR (R110 to R112) -/

/-- What one status poll found. -/
inductive Poll where
  /-- The flag has the expected value. -/
  | hit
  /-- It has not, and the poll cap is not reached. -/
  | miss
  /-- It has not, and this was the last poll. -/
  | timeout
  deriving DecidableEq, Repr

/-- The state with a context's poll count set. -/
def setPollN (ctx : Ctx) (n : Nat) (s : State) : State :=
  setLatches ctx { latches ctx s with pollN := n } s

/-- A wait that ended in a timeout ends the operation; `midway` says whether a part of a transaction
has been sent and the rest not, which leaves the EC as R50 says (R115 (a)). -/
def giveUp (midway : Bool) (s : State) : State :=
  if midway then { s with ec := Ec.abandon s.ec } else s

/-- One status poll, the retry policy of every wait (R110, R112): one step, with the EC's own steps after
it. The last allowed one abandons the transaction where `midway` says so (R50). The count stops at the
cap, which no reachable count passes (log 19). -/
def pollOnce (ctx : Ctx) (f : Flag) (e : Bool) (midway : Bool) (s : State) : Res Poll :=
  andThen (portIn .sc s) fun b t =>
    if flagValue t.cfg f b = e then .next (.hit, ecAdvance t)
    else
      let n := min ((latches ctx t).pollN + 1) Config.pollLimit
      if n = Config.pollLimit then .next (.timeout, ecAdvance (giveUp midway (setPollN ctx n t)))
      else .next (.miss, ecAdvance (setPollN ctx n t))

/-- The information of a timed-out wait (R83). -/
def timeoutInfo (f : Flag) (e : Bool) : TimeoutInfo := { port := .sc, flag := f, expected := e }

/-- At most `fuel` polls. -/
def pollUpTo (ctx : Ctx) (f : Flag) (e : Bool) (midway : Bool) (fuel : Nat) (s : State) :
    Res (Except TimeoutInfo Unit) :=
  match fuel with
  | 0 => .next (.error (timeoutInfo f e), s)
  | n + 1 =>
    andThen (pollOnce ctx f e midway s) fun r t =>
      match r with
      | .hit => .next (.ok (), t)
      | .timeout => .next (.error (timeoutInfo f e), t)
      | .miss => pollUpTo ctx f e midway n t

/-- `WAITFOR(flag, expected)` (R110, R111). -/
def waitfor (ctx : Ctx) (f : Flag) (e : Bool) (midway : Bool) (s : State) : Res (Except TimeoutInfo Unit) :=
  pollUpTo ctx f e midway Config.pollLimit (setPollN ctx 0 s)

/-- A send: one `PORT_OUT`, and the EC's own steps after it. -/
def send (p : Port) (v : Byte) (s : State) : Res Unit := withTurn (portOut p v s)

/-! ## EC_WRITE (R113, R115) -/

/-- Start of a write: the operands are latched (R113). -/
def startWrite (ctx : Ctx) (hs : Hs) (a v : Byte) (s : State) : State :=
  setLatches ctx { latches ctx s with hs := hs, late := false, addrL := a, dataL := v } s

/-- The end of a write: the trailing wait, where the configuration has it (R113, D6). -/
def writeTail (ctx : Ctx) (s : State) : Res (Except TimeoutInfo Unit) :=
  if s.cfg.writeTrailingWait then waitfor ctx .ibf false false s else .next (.ok (), s)

/-- A write from its third wait on: the data byte (R113). -/
def writeDataPart (ctx : Ctx) (s : State) : Res (Except TimeoutInfo Unit) :=
  orReturn (waitfor ctx .ibf false true s) fun _ s =>
  andThen (send .data (latches ctx s).dataL s) fun _ s => writeTail ctx s

/-- A write from its second wait on: the address byte (R113). -/
def writeAddrPart (ctx : Ctx) (s : State) : Res (Except TimeoutInfo Unit) :=
  orReturn (waitfor ctx .ibf false true s) fun _ s =>
  andThen (send .data (latches ctx s).addrL s) fun _ s => writeDataPart ctx s

/-- `EC_WRITE(addr, value)`: the command byte first (R113). -/
def ecWrite (ctx : Ctx) (a v : Byte) (s : State) : Res (Except TimeoutInfo Unit) :=
  orReturn (waitfor ctx .ibf false false (startWrite ctx .idle a v s)) fun _ s =>
  andThen (send .sc s.cfg.board.ecCmdWrite s) fun _ s => writeAddrPart ctx s

/-! ## EC_READ (R116, R118) -/

/-- Start of a read: the address is latched (R116). -/
def startRead (ctx : Ctx) (hs : Hs) (a : Byte) (s : State) : State :=
  setLatches ctx { latches ctx s with hs := hs, late := false, addrL := a } s

/-- The byte of a read is latched. -/
def setResL (ctx : Ctx) (b : Byte) (s : State) : State :=
  setLatches ctx { latches ctx s with resL := b } s

/-- A timed-out wait of a read abandons its transaction under `hard` only (R118, R50). -/
def readMidway (midway : Bool) (s : State) : Bool := midway && decide (s.cfg.readPolicy = .hard)

/-- A wait of a read; the answer says whether it succeeded. After a timeout, under `soft` the event is
emitted, a step of its own (R16), and the read goes on; under `hard` the timeout ends the read (R118). -/
def readWait (ctx : Ctx) (f : Flag) (e : Bool) (midway : Bool) (s : State) : Res (Except TimeoutInfo Bool) :=
  andThen (waitfor ctx f e (readMidway midway s) s) fun r t =>
    match r with
    | .ok _ => .next (.ok true, t)
    | .error i =>
      match t.cfg.readPolicy with
      | .soft => .next (.ok false, ecAdvance (emit (.timeoutLogged ctx i) t))
      | .hard => .next (.error i, t)

/-- A read from its third wait on: the result byte, a draw after a timeout (R116, R118 (b)). -/
def readDataPart (ctx : Ctx) (s : State) : Res (Except TimeoutInfo Byte) :=
  orReturn (readWait ctx .obf true true s) fun settled s =>
  andThen (withTurn (readPort .data settled s)) fun b s => .next (.ok b, setResL ctx b s)

/-- A read from its second wait on: the address byte (R116). -/
def readAddrPart (ctx : Ctx) (s : State) : Res (Except TimeoutInfo Byte) :=
  orReturn (readWait ctx .ibf false true s) fun _ s =>
  andThen (send .data (latches ctx s).addrL s) fun _ s => readDataPart ctx s

/-- `EC_READ(addr)`: the command byte first (R116, R118). -/
def ecRead (ctx : Ctx) (a : Byte) (s : State) : Res (Except TimeoutInfo Byte) :=
  orReturn (readWait ctx .ibf false false (startRead ctx .idle a s)) fun _ s =>
  andThen (send .sc s.cfg.board.ecCmdRead s) fun _ s => readAddrPart ctx s

/-- A sequencer state inside a transaction: a part of it has been sent and the rest not (R49). -/
def midTransaction (hs : Hs) : Bool :=
  match hs with
  | .wWait2 | .wAddr | .wWait3 | .wData | .rWait2 | .rAddr | .rWait3 | .rData => true
  | .idle | .wWait1 | .wCmd | .wWait4 | .rWait1 | .rCmd => false

/-! ## DUTY_WRITE (R120, R121) -/

/-- The write of a duty in range: the evaluation of `DUTY_ENC`, a step of its own (R16), then the write. -/
def writeDuty (ctx : Ctx) (d : Duty) (s : State) : Res (Except TimeoutInfo Unit) :=
  ecWrite ctx s.cfg.board.fanDutyWrAddr (dutyEnc d) (ecAdvance s)

/-- `DUTY_WRITE(percent)`: the range check comes before any port access (R121). -/
def dutyWrite (ctx : Ctx) (percent : Int) (s : State) : Res (Except Err Unit) :=
  if h : 0 ≤ percent ∧ percent ≤ 100 then
    andThen (writeDuty ctx ⟨percent.toNat, by omega⟩ s) fun r t =>
      .next (r.mapError .timeout, t)
  else .next (.error (.invalidArgument percent), ecAdvance s)

/-! ## The operations, issued in MAIN (log 12) -/

/-- `WAITFOR(flag, expected)` (R110). -/
def execWaitfor (f : Flag) (e : Bool) (s : State) : Host.Outcome State Fault Refusal :=
  perform (fun s => andThen (waitfor .main f e false s) fun r t => .next (retUnit (r.mapError .timeout), t)) s

/-- `EC_WRITE(addr, value)` (R113). -/
def execEcWrite (a v : Byte) (s : State) : Host.Outcome State Fault Refusal :=
  perform (fun s => andThen (ecWrite .main a v s) fun r t => .next (retUnit (r.mapError .timeout), t)) s

/-- `EC_READ(addr)` (R116). -/
def execEcRead (a : Byte) (s : State) : Host.Outcome State Fault Refusal :=
  perform (fun s => andThen (ecRead .main a s) fun r t =>
    match r with
    | .ok b => .next (.byte b, t)
    | .error i => .next (.err (.timeout i), t)) s

/-- `DUTY_WRITE(percent)` (R121). -/
def execDutyWrite (percent : Int) (s : State) : Host.Outcome State Fault Refusal :=
  perform (fun s => andThen (dutyWrite .main percent s) fun r t => .next (retUnit r, t)) s

end Sys2Proof.Machine
end

