-- ==== Sys2Proof/Machine/Thermal.lean ====
section
/-! DEFINITION. The Thermal Control Algorithm (`43_thermal.md`). Pure functions. -/

namespace Sys2Proof.Machine

/-- The first level within the tolerance of `x`, else `x` (R150). -/
def snapTo (levels : List Int) (x : Int) : Int :=
  match levels with
  | [] => x
  | level :: rest => if (x - level).natAbs ≤ Config.snapTol then level else snapTo rest x

/-- `IDENTIFY_DUTY` (R150). -/
def identifyDuty (x : Int) : Int := snapTo Config.canon x

/-- `THRESHOLD`: nine ordered rows, the first whose two conditions hold (R153). -/
def threshold (t s : Int) : Target :=
  if t ≥ 85 ∧ s < 65 then .duty 65
  else if t ≥ 75 ∧ s < 40 then .duty 40
  else if t ≥ 65 ∧ s < 30 then .duty 30
  else if t ≥ 55 ∧ s < 17 then .duty 17
  else if t ≤ 50 then .duty 0
  else if t ≤ 60 ∧ s ≥ 17 then .duty 17
  else if t ≤ 70 ∧ s ≥ 30 then .duty 30
  else if t ≤ 80 ∧ s ≥ 40 then .duty 40
  else if t ≤ 85 ∧ s ≥ 65 then .duty 65
  else .noChange

/-- The smoothed value of step 4: the base is the snapped duty, the difference is taken from the
unsnapped one (R156, D11). -/
def smoothed (target cur : Duty) : Int :=
  identifyDuty cur.val + ((target.val : Int) - cur.val) / Config.smoothDiv

/-- Step 4 of `NEXT_DUTY`: an escalation by more than the margin is smoothed, anything else is not
(R156). -/
def smooth (target cur : Duty) : Duty :=
  if h : target.val > cur.val ∧ (target.val : Int) - smoothed target cur > Config.smoothMargin then
    ⟨(smoothed target cur).toNat, by
      have h1 := target.isLt
      have h2 : (target.val : Int) - smoothed target cur > 2 := h.2
      omega⟩
  else target

/-- `NEXT_DUTY` (R156). -/
def nextDuty (cpu gpu : Byte) (cur : Duty) : Target :=
  match threshold (maxTemp cpu gpu).toNat (identifyDuty cur.val) with
  | .noChange => .noChange
  | .duty target => .duty (smooth target cur)

/-- `IDENTIFY_DUTY(x)` (R150). -/
def execIdentifyDuty (x : Int) (s : State) : Host.Outcome State Fault Refusal :=
  perform (fun s => .next (.int (identifyDuty x), ecAdvance s)) s

/-- `THRESHOLD(maxTemp, snappedDuty)` (R153). -/
def execThreshold (t : Byte) (snapped : Int) (s : State) : Host.Outcome State Fault Refusal :=
  perform (fun s => .next (.target (threshold t.toNat snapped), ecAdvance s)) s

/-- `NEXT_DUTY(cpuTemp, gpuTemp, currentDuty)` (R156). -/
def execNextDuty (cpu gpu : Byte) (cur : Duty) (s : State) : Host.Outcome State Fault Refusal :=
  perform (fun s => .next (.target (nextDuty cpu gpu cur), ecAdvance s)) s

end Sys2Proof.Machine
end

