-- ==== Sys2Proof/Machine/Control.lean ====
section
/-! DEFINITION. Host commands, Bulk Snapshot Reader and Control Loop (`44_control.md`). The functions
named `…Step` from State to State are steps of the sequencer too (`Machine/Sequencer.lean`). -/

namespace Sys2Proof.Machine

/-! ## Start-up (R170, R171) -/

/-- The mode a host command selects, and the position it starts at. -/
def modeOf (c : HostCommand) : Top × Phase :=
  match c with
  | .dump => (.dump, .osPoll .fanDuty)
  | .setduty _ => (.setduty, .osWrite)
  | .auto => (.auto, .entry)
  | .invalid => (.exit, .entry)

/-- Take a host command: validation, then `ACQUIRE`, then the mode (R170, R171). -/
def takeCommand (c : HostCommand) (s : State) : Except Err Unit × State :=
  match c with
  | .invalid => (.error (.invalidInvocation s.invocation), fatal .usageError s)
  | c =>
    match acquire s with
    | (.error e, t) => (.error e, fatal .permissionDenied t)
    | (.ok _, t) => (.ok (), { t with cmd := c, top := (modeOf c).1, phase := (modeOf c).2 })

/-! ## One-shot modes (R172 to R174) -/

/-- One polled read of `POLLED_SNAPSHOT`, its byte kept (R172). -/
def polledRead (r : Polled) (s : State) : Res (Except TimeoutInfo Unit) :=
  orReturn (ecRead .main (polledReg s.cfg r) s) fun b t =>
    .next (.ok (), { t with raws := setRaw r b t.raws })

/-- A decode of `POLLED_SNAPSHOT` (R172). -/
def decodeFieldStep (f : Field) (s : State) : State := { s with fields := decodeField f s.raws s.fields }

/-- The four decodes of `POLLED_SNAPSHOT`, each a step (R16, R172). -/
def decodePolled (s : State) : State :=
  let s := ecAdvance (decodeFieldStep .duty s)
  let s := ecAdvance (decodeFieldStep .rpm s)
  let s := ecAdvance (decodeFieldStep .cpuTemp s)
  ecAdvance (decodeFieldStep .gpuTemp s)

/-- `POLLED_SNAPSHOT` (R172, D13). -/
def polledSnapshot (s : State) : Res (Except TimeoutInfo Fields) :=
  orReturn (polledRead .fanDuty s) fun _ s =>
  orReturn (polledRead .rpmHi s) fun _ s =>
  orReturn (polledRead .rpmLo s) fun _ s =>
  orReturn (polledRead .cpuTemp s) fun _ s =>
  orReturn (polledRead .gpuTemp s) fun _ s =>
  let t := decodePolled s
  .next (.ok t.fields, t)

/-- The dump is emitted and the run ends with 0 (R173). -/
def dumpStep (s : State) : State :=
  writeExit 0 (emit (.dump s.fields.duty s.fields.rpm s.fields.cpuTemp s.fields.gpuTemp) s)

/-- A one-shot mode ends in a fatal timeout (R173, R174, R202, R203). -/
def oneShotFailed (i : TimeoutInfo) (s : State) : State := fatal (.timeoutLogged .main i) s

/-- The snapshot and dump that end both one-shot modes (R173, R174). -/
def reportAndExit (s : State) : Res Ret :=
  andThen (polledSnapshot s) fun r t =>
    match r with
    | .ok f => .next (.fields f, ecAdvance (dumpStep { t with phase := .osDump }))
    | .error i => .next (.err (.timeout i), ecAdvance (oneShotFailed i { t with phase := .osFailed i }))

/-- `DUMP` from the host command to the exit (R173). -/
def runDump (s : State) : Res Ret :=
  match takeCommand .dump s with
  | (.error e, t) => .next (.err e, ecAdvance t)
  | (.ok _, t) => reportAndExit (ecAdvance t)

/-- `SETDUTY(n)` from the host command to the exit (R174). -/
def runSetduty (n : Duty) (s : State) : Res Ret :=
  match takeCommand (.setduty n) s with
  | (.error e, t) => .next (.err e, ecAdvance t)
  | (.ok _, t) =>
    andThen (writeDuty .main n (ecAdvance t)) fun r u =>
      match r with
      | .ok _ => reportAndExit u
      | .error i => .next (.err (.timeout i), ecAdvance (oneShotFailed i { u with phase := .osFailed i }))

/-! ## Control Loop (R178 to R186) -/

/-- The start-up of `AUTO` (R178, R179). -/
def enterLoop (s : State) : State :=
  { s with
    run := true
    cs := { cpuTemp := 0, gpuTemp := 0, curDuty := 0, autoDuty := s.cfg.autoDutyInit }
    csLive := true
    armed := true
    phase := .lHead }

/-- `AUTO` from the host command to the head of the loop (R178). -/
def runAuto (s : State) : Res Ret :=
  match takeCommand .auto s with
  | (.error e, t) => .next (.err e, ecAdvance t)
  | (.ok _, t) => .next (.ok, ecAdvance (enterLoop (ecAdvance t)))

/-- `L_HEAD`: the one read of the Running Flag in an iteration (R180, R186). -/
def headStep (s : State) : State :=
  if s.run then { s with phase := .lSnap } else writeExit 0 s

/-- `L_SNAP`, the bulk read (R176, R181). -/
def snapStep (s : State) : State :=
  match snapRead s with
  | (.ok _, t) => { t with phase := .lDecode }
  | (.error e, t) => { t with phase := .lSnapFailed e }

/-- `L_SNAP` after a success: the decode writes the Control State (R181). -/
def decodeStep (s : State) : State :=
  let f := snapDecode s.cfg s.snap
  { s with
    cs := { s.cs with cpuTemp := f.cpuTemp, gpuTemp := f.gpuTemp, curDuty := f.duty }
    phase := .lDecide }

/-- `L_SNAP` after a failure: soft outcomes skip the tick, a failed open is fatal (R181, R204, R205). -/
def snapFailedStep (e : SnapFailure) (s : State) : State :=
  match e with
  | .readError => { emit .snapReadError s with phase := .lSleep }
  | .sizeMismatch n => { emit (.sizeMismatch n) s with phase := .lSleep }
  | .openFail => fatal .snapOpenError s

/-- A tick issues a write of `n` (R182): it differs from the last auto-selected duty, or it stops a
running fan. -/
def wantsWrite (cs : ControlState) (n : Duty) : Bool :=
  decide ((n.val : Int) ≠ cs.autoDuty) || (decide (n = 0) && decide (cs.curDuty ≠ 0))

/-- `L_DECIDE` (R182). -/
def decideStep (s : State) : State :=
  match nextDuty s.cs.cpuTemp s.cs.gpuTemp s.cs.curDuty with
  | .noChange => { s with phase := .lSleep }
  | .duty n => if wantsWrite s.cs n then { s with pending := n, phase := .lWrite } else { s with phase := .lSleep }

/-- `L_WRITE` after `Ok`: the selected duty is recorded and the transition logged (R183). -/
def writtenStep (s : State) : State :=
  let d := drawStamp s
  { emit (.transition s.cs.cpuTemp s.cs.gpuTemp s.pending d.1) d.2 with
    cs := { s.cs with autoDuty := s.pending.val }
    phase := .lSleep }

/-- `L_WRITE` after a timeout: logged, soft, nothing recorded (R183, R202). -/
def writeFailedStep (i : TimeoutInfo) (s : State) : State :=
  { emit (.timeoutLogged .main i) s with phase := .lSleep }

/-- `L_SLEEP`: the sleep changes nothing (R185). -/
def sleepStep (s : State) : State := { s with phase := .lHead }

/-- `L_WRITE` as a whole (R183). -/
def writeTick (s : State) : Res Unit :=
  andThen (writeDuty .main s.pending s) fun r t =>
    match r with
    | .ok _ => .next ((), ecAdvance (writtenStep t))
    | .error i => .next ((), ecAdvance (writeFailedStep i t))

/-- The tick from the decision on (R182, R183, R185). -/
def decideAndWrite (s : State) : Res Unit :=
  let d := ecAdvance (decideStep s)
  match d.phase with
  | .lWrite => andThen (writeTick d) fun _ t => .next ((), ecAdvance (sleepStep t))
  | _ => .next ((), ecAdvance (sleepStep d))

/-- The tick from the bulk read on (R181 to R185). -/
def snapAndDecide (s : State) : Res Unit :=
  let t := ecAdvance (snapStep s)
  match t.phase with
  | .lSnapFailed .openFail => .next ((), ecAdvance (snapFailedStep .openFail t))
  | .lSnapFailed e => .next ((), ecAdvance (sleepStep (ecAdvance (snapFailedStep e t))))
  | _ => decideAndWrite (ecAdvance (decodeStep t))

/-- `TICK`: one pass of the loop, from `L_HEAD` to `L_HEAD`, or to the exit, with the EC's own steps after
each of its steps (R180 to R186). -/
def runTick (s : State) : Res Unit :=
  if s.run then snapAndDecide (ecAdvance (headStep s)) else .next ((), ecAdvance (headStep s))

/-! ## The operations, issued in MAIN (log 12) -/

/-- `DUMP` (R173). -/
def execDump (s : State) : Host.Outcome State Fault Refusal := perform runDump s

/-- `SETDUTY(n)` (R174). -/
def execSetduty (n : Duty) (s : State) : Host.Outcome State Fault Refusal := perform (runSetduty n) s

/-- `AUTO` (R178). -/
def execAuto (s : State) : Host.Outcome State Fault Refusal := perform runAuto s

/-- `INVALID` (R206). -/
def execInvalid (s : State) : Host.Outcome State Fault Refusal :=
  perform (fun s => .next (retUnit (takeCommand .invalid s).1, ecAdvance (takeCommand .invalid s).2)) s

/-- `POLLED_SNAPSHOT` (R172). -/
def execPolledSnapshot (s : State) : Host.Outcome State Fault Refusal :=
  perform (fun s => andThen (polledSnapshot s) fun r t =>
    match r with
    | .ok f => .next (.fields f, t)
    | .error i => .next (.err (.timeout i), t)) s

/-- `SNAP_READ` (R176). -/
def execSnapRead (s : State) : Host.Outcome State Fault Refusal :=
  perform (fun s =>
    match snapRead s with
    | (.ok img, t) => .next (.image img, ecAdvance t)
    | (.error e, t) => .next (.err e.err, ecAdvance t)) s

/-- `TICK` (R180 to R185). -/
def execTick (s : State) : Host.Outcome State Fault Refusal :=
  perform (fun s => andThen (runTick s) fun _ t => .next (.ok, t)) s

end Sys2Proof.Machine
end

