-- ==== Sys2Proof/Machine/Guard.lean ====
section
/-! DEFINITION. The stop request and the Shutdown Guard (`60_exceptions.md` R210 to R216). -/

namespace Sys2Proof.Machine

/-- The handler's first step: the Running Flag is cleared (R212). -/
def clearRunStep (s : State) : State := { s with run := false, g := .active .write }

/-- The forced write timed out: fatal, MAIN does not resume (R214); a transaction that MAIN had half
sent is abandoned with it (R50). -/
def guardFailedStep (i : TimeoutInfo) (s : State) : State :=
  fatal (.timeoutLogged .guard i) (giveUp (midTransaction s.main.hs) s)

/-- The handler, from its entry to its end (R212, R214, R215). -/
def runGuard (s : State) : Res Ret :=
  andThen (writeDuty .guard Config.safeDuty (ecAdvance (clearRunStep s))) fun r t =>
    match r with
    | .ok _ => .next (.ok, leaveGuard t)
    | .error i =>
      .next (.err (.timeout i), ecAdvance (guardFailedStep i { t with g := .active (.failed i) }))

/-- A stop request: accepted under the conditions of R211, and without effect otherwise. -/
def stopRequest (s : State) : Res Ret :=
  if stopAcceptable s then runGuard (enterGuard s) else .next (.none, s)

/-- `GUARD`: the event `stop_req`; which of the eight signals made it is not recorded and makes no
difference (R210, R212). -/
def execGuard (_signal : StopSignal) (s : State) : Host.Outcome State Fault Refusal :=
  perform stopRequest s

end Sys2Proof.Machine
end

