-- ==== Sys2Proof/Machine/Sequencer.lean ====
section
/-! DEFINITION. The machine one step of `10_state.md` R16 at a time: the handshake tables of
`41_handshake.md` R114 and R117, the modes and the loop of `44_control.md` R170 to R186, and the guard
of `60_exceptions.md` R212 to R215, which may enter at every boundary between two steps of MAIN. -/

namespace Sys2Proof.Machine

/-! ## The handshake tables -/

/-- How far a handshake has come after a step of it. -/
inductive Progress where
  | busy
  | done
  | failed (i : TimeoutInfo)
  deriving DecidableEq, Repr

/-- A wait state of the handshake. -/
def isWait (hs : Hs) : Bool :=
  match hs with
  | .wWait1 | .wWait2 | .wWait3 | .wWait4 | .rWait1 | .rWait2 | .rWait3 => true
  | .idle | .wCmd | .wAddr | .wData | .rCmd | .rAddr | .rData => false

/-- Enter a sequencer state; a wait starts with no poll made and no timeout (R110, R114, R117), and at
`HS_IDLE` none is left over. -/
def goto (ctx : Ctx) (hs : Hs) (s : State) : State :=
  let l := latches ctx s
  setLatches ctx
    { l with
      hs := hs
      pollN := if isWait hs then 0 else l.pollN
      late := if isWait hs || decide (hs = .idle) then false else l.late } s

/-- The wait in progress timed out. -/
def setLate (ctx : Ctx) (s : State) : State := setLatches ctx { latches ctx s with late := true } s

/-- One poll of a wait state of `EC_WRITE` (R114). -/
def writeWaitStep (ctx : Ctx) (after : Hs) (midway : Bool) (s : State) : Res Progress :=
  andThen (pollOnce ctx .ibf false midway s) fun r t =>
    match r with
    | .hit => .next (if after = .idle then .done else .busy, goto ctx after t)
    | .miss => .next (.busy, t)
    | .timeout => .next (.failed (timeoutInfo .ibf false), goto ctx .idle t)

/-- One poll of a wait state of `EC_READ`; after a timeout under `soft` the event is still to be emitted
(R117, R118). -/
def readPollStep (ctx : Ctx) (f : Flag) (e : Bool) (after : Hs) (midway : Bool) (s : State) : Res Progress :=
  andThen (pollOnce ctx f e (readMidway midway s) s) fun r t =>
    match r with
    | .hit => .next (.busy, goto ctx after t)
    | .miss => .next (.busy, t)
    | .timeout =>
      match t.cfg.readPolicy with
      | .soft => .next (.busy, setLate ctx t)
      | .hard => .next (.failed (timeoutInfo f e), goto ctx .idle t)

/-- The event of a wait that timed out under `soft`, a step of its own (R16); the read goes on (R118). -/
def readLogStep (ctx : Ctx) (f : Flag) (e : Bool) (after : Hs) (s : State) : Res Progress :=
  .next (.busy, goto ctx after (ecAdvance (emit (.timeoutLogged ctx (timeoutInfo f e)) s)))

/-- A step of a wait state of `EC_READ` (R117, R118). -/
def readWaitStep (ctx : Ctx) (f : Flag) (e : Bool) (after : Hs) (midway : Bool) (s : State) : Res Progress :=
  if (latches ctx s).late then readLogStep ctx f e after s else readPollStep ctx f e after midway s

/-- A send state: one `PORT_OUT`, then the next sequencer state (R114, R117). -/
def sendStep (ctx : Ctx) (p : Port) (v : Byte) (after : Hs) (s : State) : Res Progress :=
  andThen (send p v s) fun _ t =>
    .next (if after = .idle then .done else .busy, goto ctx after t)

/-- `R_DATA`: the byte is a draw where the OBF wait timed out (R117, R118 (b)). -/
def dataStep (ctx : Ctx) (s : State) : Res Progress :=
  andThen (withTurn (readPort .data (!(latches ctx s).late) s)) fun b t =>
    .next (.done, goto ctx .idle (setResL ctx b t))

/-- One step of the handshake in progress: the tables of R114 and R117. -/
def handshakeStep (ctx : Ctx) (s : State) : Res Progress :=
  match (latches ctx s).hs with
  | .idle => .next (.done, s)
  | .wWait1 => writeWaitStep ctx .wCmd false s
  | .wCmd => sendStep ctx .sc s.cfg.board.ecCmdWrite .wWait2 s
  | .wWait2 => writeWaitStep ctx .wAddr true s
  | .wAddr => sendStep ctx .data (latches ctx s).addrL .wWait3 s
  | .wWait3 => writeWaitStep ctx .wData true s
  | .wData => sendStep ctx .data (latches ctx s).dataL (if s.cfg.writeTrailingWait then .wWait4 else .idle) s
  | .wWait4 => writeWaitStep ctx .idle false s
  | .rWait1 => readWaitStep ctx .ibf false .rCmd false s
  | .rCmd => sendStep ctx .sc s.cfg.board.ecCmdRead .rWait2 s
  | .rWait2 => readWaitStep ctx .ibf false .rAddr true s
  | .rAddr => sendStep ctx .data (latches ctx s).addrL .rWait3 s
  | .rWait3 => readWaitStep ctx .obf true .rData true s
  | .rData => dataStep ctx s

/-- The start of a write: the operands latched, the first wait entered (R113, R114). -/
def beginWrite (ctx : Ctx) (a v : Byte) (s : State) : State :=
  goto ctx .wWait1 (startWrite ctx .wWait1 a v s)

/-- The start of a duty write: one evaluation of `DUTY_ENC`, the operands latched (R121, R133). -/
def beginDutyWrite (ctx : Ctx) (d : Duty) (s : State) : State :=
  beginWrite ctx s.cfg.board.fanDutyWrAddr (dutyEnc d) s

/-- The start of a read: the address latched. -/
def beginRead (ctx : Ctx) (a : Byte) (s : State) : State :=
  goto ctx .rWait1 (startRead ctx .rWait1 a s)

/-! ## MAIN -/

/-- A step of ECHC that touches no port, and the EC's own steps after it. -/
def local_ (s : State) : Res Unit := .next ((), ecAdvance s)

/-- A step that has made its access, the EC's own steps included. -/
def made (s : State) : Res Unit := .next ((), s)

/-- The duty a one-shot `SETDUTY(n)` writes. -/
def commandDuty (c : HostCommand) : Duty :=
  match c with
  | .setduty n => n
  | _ => 0

/-- `T_START` (R170): the command is sampled, validated and taken. -/
def startStep (s : State) : Res Unit := local_ (takeCommand (decodeInvocation s.invocation) s).2

/-- The write of `T_SETDUTY` (R174). -/
def oneShotWriteStep (s : State) : Res Unit :=
  if s.main.hs = .idle then local_ (beginDutyWrite .main (commandDuty s.cmd) s)
  else andThen (handshakeStep .main s) fun r t =>
    match r with
    | .busy => made t
    | .done => made { t with phase := .osPoll .fanDuty }
    | .failed i => made { t with phase := .osFailed i }

/-- A read of `POLLED_SNAPSHOT` (R172); its first status poll also latches the address. -/
def oneShotPollStep (r : Polled) (s : State) : Res Unit :=
  let s1 := if s.main.hs = .idle then beginRead .main (polledReg s.cfg r) s else s
  andThen (handshakeStep .main s1) fun p t =>
    match p with
    | .busy => made t
    | .done =>
      let u := { t with raws := setRaw r t.main.resL t.raws }
      match nextPolled r with
      | some r' => made { u with phase := .osPoll r' }
      | none => made { u with phase := .osDecode .duty }
    | .failed i => made { t with phase := .osFailed i }

/-- A decode of `POLLED_SNAPSHOT` (R172). -/
def oneShotDecodeStep (f : Field) (s : State) : State :=
  let t := decodeFieldStep f s
  match nextField f with
  | some f' => { t with phase := .osDecode f' }
  | none => { t with phase := .osDump }

/-- The write of a tick (R183). -/
def loopWriteStep (s : State) : Res Unit :=
  if s.main.hs = .idle then local_ (beginDutyWrite .main s.pending s)
  else andThen (handshakeStep .main s) fun r t =>
    match r with
    | .busy => made t
    | .done => made { t with phase := .lWritten }
    | .failed i => made { t with phase := .lWriteFailed i }

/-- One step inside a mode, by its position. -/
def phaseStep (s : State) : Res Unit :=
  match s.phase with
  | .entry => local_ (enterLoop s)
  | .lHead => local_ (headStep s)
  | .lSnap => local_ (snapStep s)
  | .lDecode => local_ (decodeStep s)
  | .lSnapFailed e => local_ (snapFailedStep e s)
  | .lDecide => local_ (decideStep s)
  | .lWrite => loopWriteStep s
  | .lWritten => local_ (writtenStep s)
  | .lWriteFailed i => local_ (writeFailedStep i s)
  | .lSleep => local_ (sleepStep s)
  | .osWrite => oneShotWriteStep s
  | .osPoll r => oneShotPollStep r s
  | .osFailed i => local_ (oneShotFailed i s)
  | .osDecode f => local_ (oneShotDecodeStep f s)
  | .osDump => local_ (dumpStep s)

/-- One step of MAIN (R170). -/
def mainStep (s : State) : Res Unit :=
  match s.top with
  | .start => startStep s
  | .dump | .setduty | .auto => phaseStep s
  | .exit => .fault .exited

/-! ## GUARD -/

/-- One step of the handler (R212, R214, R215). -/
def guardStep (pos : GuardPos) (s : State) : Res Unit :=
  match pos with
  | .clear => local_ (clearRunStep s)
  | .write =>
    if s.guard.hs = .idle then local_ (beginDutyWrite .guard Config.safeDuty s)
    else andThen (handshakeStep .guard s) fun r t =>
      match r with
      | .busy => made t
      | .done => made (leaveGuard t)
      | .failed i => made { t with g := .active (.failed i) }
  | .failed i => local_ (guardFailedStep i s)

/-! ## The boundary between two steps (R208, R211, R213) -/

/-- A step would write `EXIT`. -/
def writesExit (r : Res Unit) : Bool :=
  match r with
  | .next (_, t) => decide (t.top = .exit)
  | .fault _ => false
  | .refused _ => false

/-- A boundary at which a stop request can be accepted: a request that stands there enters the guard,
whose first step follows at once, unless the step MAIN is about to take writes `EXIT`: then the exit
wins and the request is dropped (R208 (c), R211, R213). -/
def boundaryStep (s : State) : Res Unit :=
  let t := (drawStop s).2
  match (drawStop s).1 with
  | none => mainStep t
  | some _ => if writesExit (mainStep t) then mainStep t else guardStep .clear (enterGuard t)

/-- The next step of the sequencers: GUARD's while it is active, MAIN being frozen (R213); else MAIN's,
or the entry into the guard. -/
def sequencerStep (s : State) : Res Unit :=
  match s.g with
  | .active pos => guardStep pos s
  | .idle | .done => if stopAcceptable s then boundaryStep s else mainStep s

/-! ## The model's issue port (log 11) -/

/-- The state with the issue port emptied. -/
def clearIssue (s : State) : State := { s with issue := none }

end Sys2Proof.Machine
end

