-- ==== Sys2Proof/Machine/Dispatch.lean ====
section
/-! DEFINITION. Which meaning each operation has. -/

namespace Sys2Proof.Machine

def exec (i : Instr) (s : State) : Host.Outcome State Fault Refusal :=
  match i with
  -- Port Channel
  | .acquire => Sys2Proof.Machine.execAcquire s
  | .portIn p => Sys2Proof.Machine.execPortIn p s
  | .portOut p v => Sys2Proof.Machine.execPortOut p v s
  -- EC Protocol Engine
  | .waitfor f e => Sys2Proof.Machine.execWaitfor f e s
  | .ecWrite a v => Sys2Proof.Machine.execEcWrite a v s
  | .ecRead a => Sys2Proof.Machine.execEcRead a s
  | .dutyWrite percent => Sys2Proof.Machine.execDutyWrite percent s
  -- Register Decoder
  | .dutyDec raw => Sys2Proof.Machine.execDutyDec raw s
  | .dutyEnc percent => Sys2Proof.Machine.execDutyEnc percent s
  | .rpmDec hi lo => Sys2Proof.Machine.execRpmDec hi lo s
  | .tempDec raw => Sys2Proof.Machine.execTempDec raw s
  | .snapDecode img => Sys2Proof.Machine.execSnapDecode img s
  -- Thermal
  | .identifyDuty x => Sys2Proof.Machine.execIdentifyDuty x s
  | .threshold t snapped => Sys2Proof.Machine.execThreshold t snapped s
  | .nextDuty cpu gpu cur => Sys2Proof.Machine.execNextDuty cpu gpu cur s
  -- Control
  | .dump => Sys2Proof.Machine.execDump s
  | .setduty n => Sys2Proof.Machine.execSetduty n s
  | .auto => Sys2Proof.Machine.execAuto s
  | .invalid => Sys2Proof.Machine.execInvalid s
  | .polledSnapshot => Sys2Proof.Machine.execPolledSnapshot s
  | .snapRead => Sys2Proof.Machine.execSnapRead s
  | .tick => Sys2Proof.Machine.execTick s
  -- Shutdown Guard
  | .guard signal => Sys2Proof.Machine.execGuard signal s

end Sys2Proof.Machine
end

