-- ==== Sys2Proof/Machine/Fetch.lean ====
section
/-! DEFINITION. What one step runs: the operation on the model's issue port (log 11), or the next step
of the sequencers. -/

namespace Sys2Proof.Machine

/-- The state after an answer that carries no value. -/
def forget (r : Res Unit) : Host.Outcome State Fault Refusal :=
  match r with
  | .next (_, s) => .next s
  | .fault e => .fault e
  | .refused e => .refused e

/-- The operation on the issue port is decoded and executed; the port is emptied. -/
def issueStep (bs : List Byte) (s : State) : Host.Outcome State Fault Refusal :=
  match decode bs with
  | .ok (i, _) => exec i (clearIssue s)
  | .error e => .refused (.noOperation e)

/-- One step: none once `EXIT` is written (R25, R240); an operation on the issue port; otherwise the
next step of the sequencers (R16). -/
def nextStep (s : State) : Host.Outcome State Fault Refusal :=
  match s.top with
  | .exit => .fault .exited
  | _ =>
    match s.issue with
    | some bs => issueStep bs s
    | none => forget (sequencerStep s)

/-- A byte string put on the issue port. -/
def placeIssue (bs : List Byte) (s : State) : State := { s with issue := some bs }

end Sys2Proof.Machine
end

