-- ==== Sys2Proof/Machine/Step.lean ====
section
/-! DEFINITION. One step of the machine, and the placing of a table word where the next step finds
it. -/

namespace Sys2Proof.Machine

/-- One step of the machine (`10_state.md` R16). -/
def step (s : State) : Host.Outcome State Fault Refusal := nextStep s

/-- The state with a table word on the issue port (log 11). -/
def State.withFetchWord (s : State) (nbits w : Nat) : State := placeIssue (tableBytes nbits w) s

end Sys2Proof.Machine
end

