-- ==== Sys2Proof/Safety.lean ====
section
/-! DEFINITION. The words claims are stated in: what a run may and may not do, the invariant of the
machine, and the step-by-step runs that whole operations are compared with. -/

namespace Sys2Proof.Machine

/-! ## The port trace -/

/-- The byte an access sends, with its port. -/
def Access.sent (a : Access) : Option (Port × Byte) :=
  match a with
  | .output p b => some (p, b)
  | .input _ _ => none

/-- An access is a status poll. -/
def Access.isPoll (a : Access) : Bool :=
  match a with
  | .input .sc _ => true
  | .input .data _ => false
  | .output _ _ => false

/-- The byte an access reads from the data port. -/
def Access.dataByte (a : Access) : Option Byte :=
  match a with
  | .input .data b => some b
  | .input .sc _ => none
  | .output _ _ => none

/-- The bytes a piece of trace sends, in order. -/
def sentIn (tr : List Access) : List (Port × Byte) := tr.filterMap Access.sent

/-- The number of status polls in a piece of trace. -/
def pollsIn (tr : List Access) : Nat := tr.countP Access.isPoll

/-- The bytes a piece of trace reads from the data port, in order. -/
def dataBytesIn (tr : List Access) : List Byte := tr.filterMap Access.dataByte

/-- Status polls whose bytes all show the flag at the value. -/
def allShow (c : Config) (f : Flag) (v : Bool) (tr : List Access) : Prop :=
  ∀ a ∈ tr, ∃ b, a = .input .sc b ∧ flagValue c f b = v

/-- The status polls of one wait that succeeded: 1 to 100, of which only the last shows the expected
value (R111 (b)). -/
def GoodWait (c : Config) (f : Flag) (e : Bool) (tr : List Access) : Prop :=
  ∃ before b, tr = before ++ [.input .sc b] ∧ before.length < Config.pollLimit ∧
    allShow c f (!e) before ∧ flagValue c f b = e

/-- The status polls of one wait that timed out: 100, none of which shows the expected value
(R111 (b)). -/
def BadWait (c : Config) (f : Flag) (e : Bool) (tr : List Access) : Prop :=
  tr.length = Config.pollLimit ∧ allShow c f (!e) tr

/-- One part of a transaction: a wait, and the access made once it has succeeded, if there is one. -/
abbrev Part := Flag × Bool × Option Access

/-- The trace of a fail-fast transaction: its parts in order, up to and including the first wait that
timed out; `failed` is the information of that wait, if any did (R113, R115 (a), R118). -/
def FailFastTrace (c : Config) (parts : List Part) (failed : Option TimeoutInfo) (tr : List Access) : Prop :=
  match parts with
  | [] => failed = none ∧ tr = []
  | (f, e, x) :: rest =>
    (failed = some (timeoutInfo f e) ∧ BadWait c f e tr) ∨
    ∃ w tr', GoodWait c f e w ∧ tr = w ++ x.toList ++ tr' ∧ FailFastTrace c rest failed tr'

/-- The parts of a write transaction (R75, R114). -/
def writeParts (c : Config) (a v : Byte) : List Part :=
  [(.ibf, false, some (.output .sc c.board.ecCmdWrite)), (.ibf, false, some (.output .data a)),
   (.ibf, false, some (.output .data v))] ++
  (if c.writeTrailingWait then [(.ibf, false, none)] else [])

/-- The parts of a read transaction that read the byte `b` (R76, R117). -/
def readParts (c : Config) (a b : Byte) : List Part :=
  [(.ibf, false, some (.output .sc c.board.ecCmdRead)), (.ibf, false, some (.output .data a)),
   (.obf, true, some (.input .data b))]

/-- One wait under the `soft` policy: it succeeded, or it timed out and was logged (R116, R118). -/
def SoftWait (c : Config) (ctx : Ctx) (f : Flag) (e : Bool) (w : List Access) (evs : List Event) : Prop :=
  (GoodWait c f e w ∧ evs = []) ∨ (BadWait c f e w ∧ evs = [.timeoutLogged ctx (timeoutInfo f e)])

/-- The trace and the events of a transaction under the `soft` policy: every access is made, whatever
the waits returned (R118). -/
def SoftTrace (c : Config) (ctx : Ctx) (parts : List Part) (tr : List Access) (evs : List Event) : Prop :=
  match parts with
  | [] => tr = [] ∧ evs = []
  | (f, e, x) :: rest =>
    ∃ w tr' evs0 evs', SoftWait c ctx f e w evs0 ∧ tr = w ++ x.toList ++ tr' ∧ evs = evs0 ++ evs' ∧
      SoftTrace c ctx rest tr' evs'

/-- The error of an operation, if it ended in one. -/
def failureOf {α : Type} (r : Except TimeoutInfo α) : Option TimeoutInfo :=
  match r with
  | .ok _ => none
  | .error i => some i

/-- What the caller of a write or a wait sees, by the wait that failed if one did. -/
def retOf (failed : Option TimeoutInfo) : Ret :=
  match failed with
  | none => .ok
  | some i => .err (.timeout i)

/-- The bytes the five reads of a polled snapshot send, in order (R172). -/
def polledBytes (c : Config) : List (Port × Byte) :=
  sentBytes c (.ecRead c.board.regFanDuty) ++ sentBytes c (.ecRead c.board.regFanRpmHi) ++
  sentBytes c (.ecRead c.board.regFanRpmLo) ++ sentBytes c (.ecRead c.board.regCpuTemp) ++
  sentBytes c (.ecRead c.board.regGpuTemp)

/-- The parts of the five reads of a polled snapshot that read the bytes `w` (R172). -/
def polledParts (c : Config) (w : Raws) : List Part :=
  readParts c c.board.regFanDuty w.bd ++ readParts c c.board.regFanRpmHi w.bh ++
  readParts c c.board.regFanRpmLo w.bl ++ readParts c c.board.regCpuTemp w.bc ++
  readParts c c.board.regGpuTemp w.bg

/-- The five bytes of a polled snapshot, in the order they are read (R172). -/
def rawBytes (w : Raws) : List Byte := [w.bd, w.bh, w.bl, w.bc, w.bg]

/-- The event of a dump (R173). -/
def dumpEvent (f : Fields) : Event := .dump f.duty f.rpm f.cpuTemp f.gpuTemp

/-- The polled snapshot of a one-shot mode, by policy: under `soft` all five reads are made, their timeouts
logged; under `hard` the reads are made up to the first wait that timed out, and nothing is logged by them
(R118, R172). `w` are the bytes read, complete where no wait failed. -/
def PolledRun (c : Config) (w : Raws) (failed : Option TimeoutInfo) (tr : List Access) (evs : List Event) :
    Prop :=
  sentIn tr <+: polledBytes c ∧
  (failed = none → sentIn tr = polledBytes c ∧ dataBytesIn tr = rawBytes w) ∧
  ((c.readPolicy = .soft ∧ failed = none ∧ SoftTrace c .main (polledParts c w) tr evs) ∨
   (c.readPolicy = .hard ∧ evs = [] ∧ FailFastTrace c (polledParts c w) failed tr))

/-! ## The inputs -/

/-- The answer the platform gives to a bulk read made now: the scripted one, or the free value. -/
def nextSnap (s : State) : SnapAnswer := headOr s.env.snaps (Config.freeSnap s.env.drawn)

/-- The byte that no rule chooses, read now. -/
def nextByte (s : State) : Byte := headOr s.env.bytes (Config.freeByte s.env.drawn)

/-- The EC changes by its own steps only. -/
def EcTurns (c : Config) (e e' : Ec) : Prop :=
  ∃ turns : List (List EcMove × List (Byte × Byte)),
    e' = turns.foldl (fun e x => Ec.turn c x.1 x.2 e) e

/-! ## Frames -/

/-- Nothing but the EC, the inputs used up and the trace differs. -/
def PortFrame (s t : State) : Prop := t = { s with ec := t.ec, env := t.env, trace := t.trace }

/-- Nothing but one context's latches, the EC, the inputs used up, the trace and the log differs. -/
def EngineFrame (ctx : Ctx) (s t : State) : Prop :=
  t = { setLatches ctx (latches ctx t) s with
        ec := t.ec, env := t.env, trace := t.trace, log := t.log }

/-- What MAIN owns and GUARD must not touch (R213, R221); `top` and the Control State's existence are kept
too, but where the guard ends the run (R214). -/
def MainKept (s t : State) : Prop :=
  t.phase = s.phase ∧ t.main = s.main ∧ t.cs = s.cs ∧ t.pending = s.pending ∧ t.snap = s.snap ∧
  t.fields = s.fields ∧ t.raws = s.raws ∧ t.cmd = s.cmd

/-- What never changes or only grows: the configuration and the inputs of the host (R21, H1), the log
and the trace (R24), and the flags that are never cleared (R18, R19), the EC's corruption among them (R50); the kind of EC
stays (log 26). -/
structure Grows (s t : State) : Prop where
  cfg : t.cfg = s.cfg
  invocation : t.invocation = s.invocation
  priv : t.priv = s.priv
  log : s.log <+: t.log
  trace : s.trace <+: t.trace
  acquired : s.acquired = true → t.acquired = true
  armed : s.armed = true → t.armed = true
  guardTaken : s.guardTaken = true → t.guardTaken = true
  reference : t.ec.reference = s.ec.reference
  corrupt : s.ec.corrupt = true → t.ec.corrupt = true

/-! ## The invariant -/

/-- A sequencer state of `EC_READ` (R117). -/
def readState (hs : Hs) : Bool :=
  match hs with
  | .rWait1 | .rCmd | .rWait2 | .rAddr | .rWait3 | .rData => true
  | .idle | .wWait1 | .wCmd | .wWait2 | .wAddr | .wWait3 | .wData | .wWait4 => false

/-- What holds of every state a run reaches. -/
structure Inv (s : State) : Prop where
  /-- The EC register file has its canonical form. -/
  regsWf : s.ec.regs.wf = true
  /-- `pollN` is 0..100 in both contexts (R14). -/
  mainPolls : s.main.pollN ≤ 100
  guardPolls : s.guard.pollN ≤ 100
  /-- Every mode is entered through a successful `ACQUIRE` (R170, R104). -/
  modeAcquired : s.top = .dump ∨ s.top = .setduty ∨ s.top = .auto → s.acquired = true
  /-- The guard is armed only after `ACQUIRE` (R104, R178). -/
  armedAcquired : s.armed = true → s.acquired = true
  /-- `EXIT` is written exactly at `T_EXIT` (R25). -/
  exitTop : s.exit.isSome = true ↔ s.top = .exit
  /-- The guard is one-shot (R211). -/
  takenGuard : s.guardTaken = true ↔ s.g ≠ .idle
  takenArmed : s.guardTaken = true → s.armed = true
  /-- Once armed, the Running Flag is cleared by the guard only (R186). -/
  runCleared : s.armed = true → s.run = false → s.guardTaken = true
  /-- The guard makes no `EC_READ` (R120, R212). -/
  guardWrites : readState s.guard.hs = false
  /-- `T_SETDUTY` has its duty. -/
  setdutyCmd : s.top = .setduty → ∃ n, s.cmd = .setduty n

/-! ## Step-by-step runs -/

/-- A handshake, step by step, until it is over or the fuel is used up. -/
def runHandshake (ctx : Ctx) (fuel : Nat) (s : State) : Res Progress :=
  match fuel with
  | 0 => .next (.busy, s)
  | n + 1 => andThen (handshakeStep ctx s) fun p t =>
    match p with
    | .busy => runHandshake ctx n t
    | .done => .next (.done, t)
    | .failed i => .next (.failed i, t)

/-- How a finished operation reads as the progress of a handshake. -/
def progressOf {α : Type} (r : Except TimeoutInfo α) : Progress :=
  match r with
  | .ok _ => .done
  | .error i => .failed i

/-- Steps of MAIN, one after another. -/
def runMain (fuel : Nat) (s : State) : Res Unit :=
  match fuel with
  | 0 => .next ((), s)
  | n + 1 => andThen (mainStep s) fun _ t => runMain n t

/-- Steps of the machine, one after another. -/
def runSteps (fuel : Nat) (s : State) : Host.Outcome State Fault Refusal :=
  match fuel with
  | 0 => .next s
  | n + 1 =>
    match step s with
    | .next t => runSteps n t
    | .fault e => .fault e
    | .refused e => .refused e

/-! ## The environments of named claims -/

/-- Premise P-IDLE: the EC is idle (R241). -/
def EcIdle (e : Ec) : Prop := e.ibf = false ∧ e.obf = false ∧ e.ph = .idle ∧ e.corrupt = false

/-- The prompt EC of R52 during a write transaction: it consumes after every byte sent, the last one too
where no wait follows it. -/
def promptWrite (trailing : Bool) : List (List EcMove) :=
  [[], [.consume], [], [.consume], [], [.consume]] ++ (if trailing then [[]] else [])

/-- The prompt EC of R52 during a read transaction. -/
def promptRead : List (List EcMove) := [[], [.consume], [], [.consume], [], []]

/-- A move that touches no EC register. -/
def silentMove (m : EcMove) : Bool :=
  match m with
  | .take | .produce | .drop => true
  | .consume | .sense _ _ => false

/-- One tick under ideal read-back at constant temperatures (R160): the decision of R182, and a
written duty read back unchanged. -/
def idealTick (c : ControlState) : ControlState :=
  match nextDuty c.cpuTemp c.gpuTemp c.curDuty with
  | .noChange => c
  | .duty n => if wantsWrite c n then { c with curDuty := n, autoDuty := n.val } else c

/-- Ticks under ideal read-back. -/
def idealTicks (k : Nat) (c : ControlState) : ControlState :=
  match k with
  | 0 => c
  | n + 1 => idealTicks n (idealTick c)

end Sys2Proof.Machine
end

