-- ==== Sys2Proof/Certificates/Slice0/Obligations.lean ====
section
/-! DEFINITION. The statements for the provers. Each docstring names the rule of `spec/` it formalises;
where it rests on a choice of the model, it names the log entry. -/

open Sys2Proof Sys2Proof.Machine

/-! ## Encodings -/

/-- Decoding the operation word of a well-formed instruction gives it back, with every operand at every
value, whatever follows it. The operation words are the model's choice (log 11). -/
def Obligations.OperationWordsRoundTrip : Prop :=
  ∀ (i : Instr) (rest : List Byte), i.wellFormed = true → decode (encode i ++ rest) = .ok (i, rest)

/-- The four decoded values of an invocation (`30_encoding.md` R71 with the spec's decision D24, R80 (a)).
-/
def Obligations.HostCommandDecoding : Prop :=
  decodeInvocation [] = .dump ∧ decodeInvocation [.int (-1)] = .auto ∧
  (∀ n : Duty, decodeInvocation [.int n.val] = .setduty n) ∧
  (∀ args : List Arg, args ≠ [] → args ≠ [.int (-1)] → (∀ n : Duty, args ≠ [.int n.val]) →
    decodeInvocation args = .invalid)

/-- Words and invocations written out by hand decode to what they stand for: the invocations from
`30_encoding.md` R71, the operation words from log 11. -/
def Obligations.SampleWordsDecode : Prop :=
  decodeInvocation [.int 100] = .setduty 100 ∧ decodeInvocation [.int 101] = .invalid ∧
  decodeInvocation [.int (-2)] = .invalid ∧ decodeInvocation [.int 40, .int 40] = .invalid ∧
  decode [2, 1, 0x80] = .ok (.portOut .sc 0x80, []) ∧
  decode [6, 0xFF, 0xFF, 0xFF, 0xFF] = .ok (.dutyWrite (-1), []) ∧
  decode [16, 65] = .ok (.setduty 65, []) ∧ decode [16, 101] = .error (.badOperand 16) ∧
  decode [23] = .error (.unknownOperation 23)

/-! ## Reset, fetch and the end of a run -/

/-- The reset values of `10_state.md` R27, which the spec marks as derived but for `acquired` and `armed`
(the source's) and `guardTaken` (its decision D19); `csLive` says that the Control State does not exist
(log 22). The empty trace is no value of R27: the field and its value are the model's (log 18). -/
def Obligations.ResetValues : Prop :=
  let r := State.reset
  r.top = .start ∧ r.main.hs = .idle ∧ r.guard.hs = .idle ∧ r.g = .idle ∧ r.acquired = false ∧
  r.armed = false ∧ r.guardTaken = false ∧ r.csLive = false ∧ r.log = [] ∧ r.exit = none ∧ r.trace = []

/-- A step runs the operation on the issue port, whatever the state, and a byte string that is none is
refused. The issue port is the model's own (log 11). -/
def Obligations.StepRunsIssuedOperation : Prop :=
  (∀ (s : State) (bs rest : List Byte) (i : Instr), s.top ≠ .exit → s.issue = some bs →
    decode bs = .ok (i, rest) → step s = exec i { s with issue := none }) ∧
  (∀ (s : State) (bs : List Byte) (e : DecodeError), s.top ≠ .exit → s.issue = some bs →
    decode bs = .error e → step s = .refused (.noOperation e)) ∧
  (∀ (s : State) (nbits w : Nat) (i : Instr), s.top ≠ .exit → decodeTableWord nbits w = some i →
    step (s.withFetchWord nbits w) = exec i { s with issue := none })

/-- At `T_START` the host command is sampled and validated, the ports are acquired and the mode is entered
(`44_control.md` R170, R171 with the spec's decision D22). That all of it is one step of the machine is the
model's reading of `10_state.md` R16 (log 13); the EC's own steps follow it. -/
def Obligations.StartAdmitsTheHostCommand : Prop :=
  ∀ s : State, s.top = .start → s.issue = none → s.g = .idle → s.armed = false →
    let u := ecAdvance s
    (decodeInvocation s.invocation = .invalid →
      step s = .next { u with log := s.log ++ [.usageError], exit := some s.cfg.exitFail, top := .exit,
                              csLive := false }) ∧
    (decodeInvocation s.invocation ≠ .invalid → s.priv = false →
      step s = .next { u with log := s.log ++ [.permissionDenied], exit := some s.cfg.exitFail, top := .exit,
                              csLive := false }) ∧
    (decodeInvocation s.invocation = .dump → s.priv = true →
      step s = .next { u with acquired := true, cmd := .dump, top := .dump, phase := .osPoll .fanDuty }) ∧
    (∀ n, decodeInvocation s.invocation = .setduty n → s.priv = true →
      step s = .next { u with acquired := true, cmd := .setduty n, top := .setduty, phase := .osWrite }) ∧
    (decodeInvocation s.invocation = .auto → s.priv = true →
      step s = .next { u with acquired := true, cmd := .auto, top := .auto, phase := .entry })

/-- `EXIT` is written once, with 0 or `EXIT_FAIL`, exactly when `top` becomes `T_EXIT`, and after that no
step and no operation is taken (`10_state.md` R25). The premise is the invariant of
`InvariantKeptByEveryStep`. -/
def Obligations.ExitIsWrittenOnceAndLast : Prop :=
  (∀ s : State, s.top = .exit → step s = .fault .exited ∧ ∀ i, exec i s = .fault .exited) ∧
  (∀ s t : State, Inv s → step s = .next t →
    s.exit = none ∧ (t.top = .exit ↔ t.exit.isSome = true) ∧
    (∀ c, t.exit = some c → c = 0 ∨ c = s.cfg.exitFail))

/-! ## Port Channel -/

/-- `ACQUIRE` succeeds exactly with privilege and touches no port (`40_port_channel.md` R100, V40-1,
V40-2); the EC's own steps follow it, as they follow every step (`20_memory.md` R45). -/
def Obligations.AcquireNeedsPrivilege : Prop :=
  ∀ s : State, s.top ≠ .exit →
    (s.priv = true → exec .acquire s = .next { ecAdvance s with acquired := true, ret := .ok }) ∧
    (s.priv = false → exec .acquire s = .next { ecAdvance s with ret := .err .permission })

/-- A port access before `ACQUIRE` is the fault `NotAcquired`, and no operation sequence of the machine
reaches it (`40_port_channel.md` R104 with the spec's decision D23). The premise of the second part is the
invariant of `InvariantKeptByEveryStep`. -/
def Obligations.PortBeforeAcquireFaults : Prop :=
  (∀ (s : State) (p : Port) (v : Byte), s.top ≠ .exit → s.acquired = false →
    exec (.portIn p) s = .fault .notAcquired ∧ exec (.portOut p v) s = .fault .notAcquired) ∧
  (∀ s : State, Inv s → s.issue = none → step s ≠ .fault .notAcquired)

/-- `PORT_IN(P_SC)` returns the status byte of the EC as it is, which shows IBF and OBF in their places and
is a free byte once the EC is corrupt; it has no side effect on the EC, which changes by its own steps only
(`40_port_channel.md` R101, `20_memory.md` R46, R50, R51, `30_encoding.md` R73). -/
def Obligations.PortInReadsTheStatus : Prop :=
  ∀ s : State, s.top ≠ .exit → s.acquired = true → s.cfg.ok = true →
    ∃ b t, exec (.portIn .sc) s = .next t ∧ t.ret = .byte b ∧ t.trace = s.trace ++ [.input .sc b] ∧
      (s.ec.corrupt = false → flagValue s.cfg .ibf b = s.ec.ibf ∧ flagValue s.cfg .obf b = s.ec.obf) ∧
      (s.ec.corrupt = true → b = nextByte s) ∧ EcTurns s.cfg s.ec t.ec ∧
      t = { s with ec := t.ec, env := t.env, trace := t.trace, ret := t.ret }

/-- `PORT_IN(P_DATA)` returns the EC's output byte and clears OBF when OBF is set; otherwise, and of a
corrupt EC, it returns the byte that no rule chooses; beyond that the EC changes by its own steps only
(`40_port_channel.md` R101, `20_memory.md` R46, R48, R51 with the spec's decision D27, logs 4 and 20). -/
def Obligations.PortInReadsTheData : Prop :=
  ∀ s : State, s.top ≠ .exit → s.acquired = true →
    ∃ b t, exec (.portIn .data) s = .next t ∧ t.ret = .byte b ∧ t.trace = s.trace ++ [.input .data b] ∧
      (s.ec.obf = true → s.ec.corrupt = false →
        b = s.ec.outb ∧ EcTurns s.cfg { s.ec with obf := false } t.ec) ∧
      (s.ec.obf = false ∨ s.ec.corrupt = true → b = nextByte s ∧ EcTurns s.cfg s.ec t.ec) ∧
      t = { s with ec := t.ec, env := t.env, trace := t.trace, ret := t.ret }

/-- `PORT_OUT` makes exactly one write and gives the byte to the EC's input buffer, which sets IBF; from
there the EC changes by its own steps only (`40_port_channel.md` R102, `20_memory.md` R47, R51). A byte
written while IBF is set, or a command byte inside an unfinished transaction of an EC that is not the
reference responder, leaves the EC corrupt, and nothing is said of its registers then (R50, logs 6 and
26). -/
def Obligations.PortOutGivesTheByteToTheEc : Prop :=
  ∀ (s : State) (p : Port) (v : Byte), s.top ≠ .exit → s.acquired = true →
    ∃ t, exec (.portOut p v) s = .next t ∧ t.ret = .ok ∧ t.trace = s.trace ++ [.output p v] ∧
      (s.ec.ibf = false → s.ec.corrupt = false → (p = .sc → s.ec.ph = .idle ∨ s.ec.reference = true) →
        EcTurns s.cfg { s.ec with inb := v, inbCmd := decide (p = .sc), ibf := true } t.ec) ∧
      (s.ec.ibf = true ∨ (p = .sc ∧ s.ec.ph ≠ .idle ∧ s.ec.reference = false) → t.ec.corrupt = true) ∧
      t = { s with ec := t.ec, env := t.env, trace := t.trace, ret := t.ret }

/-! ## The EC's side of the contract -/

/-- IBF is set by every byte written to either port, stays set until the EC consumes that byte, and then
stays clear until the next one (`20_memory.md` R47), for an EC whose behaviour is defined (logs 5 and 26).
-/
def Obligations.IbfFollowsTheByte : Prop :=
  (∀ (p : Port) (v : Byte) (e : Ec), (Ec.receive p v e).ibf = true) ∧
  (∀ (c : Config) (m : EcMove) (e : Ec), e.ibf = true → e.corrupt = false →
    ((Ec.move c m e).ibf = false ↔ m = .consume ∨ (m = .take ∧ e.reference = false))) ∧
  (∀ (c : Config) (m : EcMove) (e : Ec), e.ibf = false → (Ec.move c m e).ibf = false)

/-- A byte written while IBF is set makes the EC corrupt; so do, unless it is the reference responder, a
command inside an unfinished transaction and a transaction abandoned part-way; nothing ends that; and every
byte read from either port is then a free one (`20_memory.md` R46, R50, R52; the instant it begins is the
model's choice, log 6). -/
def Obligations.CorruptionIsForEverAndFree : Prop :=
  (∀ (p : Port) (v : Byte) (e : Ec),
    e.ibf = true ∨ (p = .sc ∧ e.ph ≠ .idle ∧ e.reference = false) → (Ec.receive p v e).corrupt = true) ∧
  (∀ e : Ec, e.reference = false → (Ec.abandon e).corrupt = true) ∧
  (∀ (c : Config) (ms : List EcMove) (ws : List (Byte × Byte)) (p : Port) (v : Byte) (e : Ec),
    e.corrupt = true → (Ec.turn c ms ws e).corrupt = true ∧ (Ec.receive p v e).corrupt = true) ∧
  (∀ (s : State) (p : Port), s.top ≠ .exit → s.acquired = true → s.ec.corrupt = true →
    ∃ t, exec (.portIn p) s = .next t ∧ t.ret = .byte (nextByte s) ∧ t.ec.corrupt = true)

/-- What the reference responder stores when it consumes the data byte of a write: the addressed register,
and the duty read-back register when the address is the duty write's; every other register keeps its byte
(`20_memory.md` R52, the responder of the spec's decision D26, log 5). -/
def Obligations.ConsumedDataByteIsStored : Prop :=
  ∀ (c : Config) (e : Ec) (a x : Byte), e.regs.wf = true → e.ibf = true → e.corrupt = false →
    e.inbCmd = false → e.ph = .wrData a →
    (Ec.move c .consume e).regs.read x =
      if x = a ∨ (a = c.board.fanDutyWrAddr ∧ x = c.board.regFanDuty) then e.inb else e.regs.read x

/-- ECHC itself stores nothing in an EC register: while every move of the EC is a scripted one that
touches none (the script is not used up at the end) and the EC is not corrupt, every register reads as
before, after every operation and after every step (`10_state.md` R22; the scripts are the model's, log 3).
Of the registers of a corrupt EC nothing is said (`20_memory.md` R50). -/
def Obligations.RegistersChangeOnlyByTheEc : Prop :=
  ∀ (s t : State) (a : Byte), (∀ ms ∈ s.env.moves, ∀ m ∈ ms, silentMove m = true) → t.env.moves ≠ [] →
    t.ec.corrupt = false → ((∃ i, exec i s = .next t) ∨ step s = .next t) →
    t.ec.regs.read a = s.ec.regs.read a

/-! ## EC Protocol Engine -/

/-- `WAITFOR` succeeds after 1 to 100 status reads of which only the last shows the expected value, or
times out after exactly 100 reads none of which does; it names port, flag and value; `pollN` counts the
unsuccessful polls; it sends nothing, changes nothing else of ECHC, and the EC changes by its own steps only
(`41_handshake.md` R110, R111; that the first poll is immediate and that there is no 101st read is the
spec's own decision D7, log 23). -/
def Obligations.WaitforPollsAtMostHundredTimes : Prop :=
  ∀ (s : State) (f : Flag) (e : Bool), s.top ≠ .exit → s.acquired = true →
    ∃ tr t, exec (.waitfor f e) s = .next t ∧ t.trace = s.trace ++ tr ∧
      ((GoodWait s.cfg f e tr ∧ t.ret = .ok ∧ t.main.pollN + 1 = tr.length) ∨
       (BadWait s.cfg f e tr ∧ t.ret = .err (.timeout { port := .sc, flag := f, expected := e }) ∧
        t.main.pollN = 100)) ∧
      EcTurns s.cfg s.ec t.ec ∧
      t = { s with main := { s.main with pollN := t.main.pollN }, ec := t.ec, env := t.env, trace := t.trace,
                   ret := t.ret }

/-- `EC_WRITE` sends command, address and data, each after a wait, with the trailing wait where the
configuration has it; the first wait that times out ends it and is its result; nothing is logged and
nothing else of ECHC changes (`41_handshake.md` R113 with the spec's decision D6, R115, `30_encoding.md`
R75). -/
def Obligations.EcWriteIsFailFast : Prop :=
  ∀ (s : State) (a v : Byte), s.top ≠ .exit → s.acquired = true →
    ∃ failed tr t, exec (.ecWrite a v) s = .next t ∧ t.trace = s.trace ++ tr ∧
      FailFastTrace s.cfg (writeParts s.cfg a v) failed tr ∧ t.ret = retOf failed ∧
      t = { s with main := { s.main with hs := .idle, late := false, addrL := a, dataL := v, pollN := t.main.pollN },
                   ec := t.ec, env := t.env, trace := t.trace, ret := t.ret }

/-- The counts of `EC_WRITE`: on success exactly the three bytes of the transaction and 4 to 400 status
reads (3 to 300 without the trailing wait), never a data read; on a timeout a prefix of the three bytes,
and an EC that is not the reference responder is corrupt when one or two of them were sent
(`41_handshake.md` R115; the instant of the corruption is the model's, logs 6 and 26). -/
def Obligations.EcWriteCounts : Prop :=
  ∀ (s t : State) (a v : Byte), exec (.ecWrite a v) s = .next t →
    ∃ tr, t.trace = s.trace ++ tr ∧ dataBytesIn tr = [] ∧ sentIn tr <+: sentBytes s.cfg (.ecWrite a v) ∧
      (t.ret = .ok → sentIn tr = sentBytes s.cfg (.ecWrite a v) ∧
        (s.cfg.writeTrailingWait = true → 4 ≤ pollsIn tr ∧ pollsIn tr ≤ 400) ∧
        (s.cfg.writeTrailingWait = false → 3 ≤ pollsIn tr ∧ pollsIn tr ≤ 300)) ∧
      (s.ec.reference = false → (sentIn tr).length = 1 ∨ (sentIn tr).length = 2 → t.ec.corrupt = true)

/-- `EC_WRITE` with the prompt EC of `20_memory.md` R52: seven port accesses, or six without the trailing
wait, result `Ok`, the register written reads back the byte, and so does the duty register when the address
is the duty write's; every other register keeps its byte, and the EC has consumed the data byte also where
no wait follows it (vectors V41-10 and V41-11, `41_handshake.md` R115's example; the responder is the spec's
decision D26). -/
def Obligations.PromptEcTakesTheWrite : Prop :=
  ∀ (s : State) (a v : Byte) (rest : List (List EcMove)), s.top ≠ .exit → s.acquired = true →
    s.cfg.ok = true → s.cfg.board.ecCmdRead ≠ s.cfg.board.ecCmdWrite →
    EcIdle s.ec → s.ec.regs.wf = true → s.env.moves = promptWrite s.cfg.writeTrailingWait ++ rest →
    ∃ tr t, exec (.ecWrite a v) s = .next t ∧ t.ret = .ok ∧ t.trace = s.trace ++ tr ∧
      tr.length = (if s.cfg.writeTrailingWait then 7 else 6) ∧
      sentIn tr = sentBytes s.cfg (.ecWrite a v) ∧ EcIdle t.ec ∧ t.env.moves = rest ∧ t.main.pollN = 0 ∧
      ∀ x, t.ec.regs.read x =
        if x = a ∨ (a = s.cfg.board.fanDutyWrAddr ∧ x = s.cfg.board.regFanDuty) then v else s.ec.regs.read x

/-- `EC_READ` under the `soft` policy always performs both sends and the one data read, logs every wait
that timed out, and answers the byte read, which is also in `resL`: 2 writes, 1 data read, 3 to 300 status
reads; nothing else of ECHC changes; and the byte read in `R_DATA` after an OBF wait that timed out is one
that no rule chooses, even where OBF has come meanwhile (`41_handshake.md` R116, R118 with the spec's
decision D8, `70_reset_and_hazards.md` R254; that position is the latch `late`, log 13). -/
def Obligations.SoftReadAlwaysAnswers : Prop :=
  (∀ (s : State) (a : Byte), s.top ≠ .exit → s.acquired = true → s.cfg.readPolicy = .soft →
    ∃ b tr evs t, exec (.ecRead a) s = .next t ∧ t.ret = .byte b ∧ t.trace = s.trace ++ tr ∧
      t.log = s.log ++ evs ∧ SoftTrace s.cfg .main (readParts s.cfg a b) tr evs ∧
      sentIn tr = sentBytes s.cfg (.ecRead a) ∧ dataBytesIn tr = [b] ∧ 3 ≤ pollsIn tr ∧ pollsIn tr ≤ 300 ∧
      evs.length ≤ 3 ∧
      t = { s with main := { s.main with hs := .idle, late := false, addrL := a, resL := b,
                                         pollN := t.main.pollN },
                   ec := t.ec, env := t.env, trace := t.trace, log := t.log, ret := t.ret }) ∧
  (∀ (ctx : Ctx) (s : State), s.acquired = true → (latches ctx s).hs = .rData → (latches ctx s).late = true →
    ∃ t, handshakeStep ctx s = .next (.done, t) ∧ (latches ctx t).resL = nextByte s ∧
      t.trace = s.trace ++ [.input .data (nextByte s)])

/-- `EC_READ` under the `hard` policy is fail-fast like `EC_WRITE`, and logs nothing itself
(`41_handshake.md` R118 with the spec's decision D8); a read given up after a byte was sent leaves an EC
that is not the reference responder corrupt (`20_memory.md` R50, logs 6 and 26). -/
def Obligations.HardReadIsFailFast : Prop :=
  ∀ (s : State) (a : Byte), s.top ≠ .exit → s.acquired = true → s.cfg.readPolicy = .hard →
    ∃ failed b tr t, exec (.ecRead a) s = .next t ∧ t.trace = s.trace ++ tr ∧
      FailFastTrace s.cfg (readParts s.cfg a b) failed tr ∧
      (failed = none → t.ret = .byte b ∧ t.main.resL = b) ∧
      (∀ i, failed = some i → t.ret = .err (.timeout i) ∧ t.main.resL = s.main.resL ∧
        (sentIn tr ≠ [] → s.ec.reference = false → t.ec.corrupt = true)) ∧
      t = { s with main := { s.main with hs := .idle, late := false, addrL := a, resL := t.main.resL,
                                         pollN := t.main.pollN },
                   ec := t.ec, env := t.env, trace := t.trace, ret := t.ret }

/-- `EC_READ` with the prompt EC: six port accesses, the addressed register's byte, OBF clear after it,
and no register changed, under either policy (vector V41-20; the responder is the spec's decision D26). -/
def Obligations.PromptEcAnswersTheRead : Prop :=
  ∀ (s : State) (a : Byte) (rest : List (List EcMove)), s.top ≠ .exit → s.acquired = true → s.cfg.ok = true →
    EcIdle s.ec → s.env.moves = promptRead ++ rest →
    ∃ tr t, exec (.ecRead a) s = .next t ∧ t.ret = .byte (s.ec.regs.read a) ∧ t.trace = s.trace ++ tr ∧
      tr.length = 6 ∧ sentIn tr = sentBytes s.cfg (.ecRead a) ∧ EcIdle t.ec ∧ t.log = s.log ∧
      t.env.moves = rest ∧ t.ec.regs = s.ec.regs

/-- `DUTY_WRITE` refuses a value outside 0..100 before any port access, and is `EC_WRITE` of the encoded
duty to the duty address otherwise, the EC's own steps having followed the evaluation of `DUTY_ENC`; both
complete (`41_handshake.md` R121 with the spec's decisions D4 and D9, `10_state.md` R16). -/
def Obligations.DutyWriteChecksItsRange : Prop :=
  ∀ s : State, s.top ≠ .exit →
    (∀ p : Int, p < 0 ∨ 100 < p →
      exec (.dutyWrite p) s = .next { ecAdvance s with ret := .err (.invalidArgument p) }) ∧
    (∀ d : Duty,
      exec (.dutyWrite d.val) s = exec (.ecWrite s.cfg.board.fanDutyWrAddr (dutyEnc d)) (ecAdvance s)) ∧
    (∀ d : Duty, s.acquired = true → ∃ t, exec (.dutyWrite d.val) s = .next t)

/-! ## Register Decoder -/

/-- `DUTY_DEC` is `raw * 100 / 255` rounded to the nearest integer: no integer is nearer, and no tie
occurs (`42_codec.md` R130). -/
def Obligations.DutyDecRoundsToNearest : Prop :=
  ∀ (raw : Byte) (s : State), s.top ≠ .exit →
    ∃ d : Duty, exec (.dutyDec raw) s = .next { ecAdvance s with ret := .int d.val } ∧
      2 * (255 * (d.val : Int) - 100 * raw.toNat).natAbs < 255 ∧ d.val = (200 * raw.toNat + 255) / 510

/-- `DUTY_ENC` is `floor(percent * 255 / 100)`, strictly increasing, from 0 to 255 (`42_codec.md` R133,
the spec's decision D9); decoding an encoded duty gives it back, and the converse does not hold (R134, which
the spec derives). -/
def Obligations.DutyEncIsTheFloorAndRoundTrips : Prop :=
  (∀ (p : Duty) (s : State), s.top ≠ .exit →
    ∃ b : Byte, exec (.dutyEnc p) s = .next { ecAdvance s with ret := .byte b } ∧
      b.toNat = p.val * 255 / 100 ∧ exec (.dutyDec b) s = .next { ecAdvance s with ret := .int p.val }) ∧
  (∀ p q : Duty, p < q → (dutyEnc p).toNat < (dutyEnc q).toNat) ∧ dutyEnc 0 = 0 ∧ dutyEnc 100 = 255 ∧
  ∃ r : Byte, dutyEnc (dutyDec r) ≠ r

/-- `RPM_DEC` is the floor of the quotient by the count, high byte first, and 0 for a zero count
(`42_codec.md` R135). -/
def Obligations.RpmDecDividesTheCount : Prop :=
  ∀ (hi lo : Byte) (s : State), s.top ≠ .exit →
    exec (.rpmDec hi lo) s =
      .next { ecAdvance s with ret := .int (if 256 * hi.toNat + lo.toNat > 0 then
                                    ((2156220 / (256 * hi.toNat + lo.toNat) : Nat) : Int) else 0) }

/-- `RPM_DEC` is 0 for the count 0 only, at most 2156220 and at least 32 otherwise, does not increase with
the count, and decreases strictly up to the count 1484, whose result ties with the next one (`42_codec.md`
R136). -/
def Obligations.RpmDecOrder : Prop :=
  rpmDec 0 0 = 0 ∧ rpmDec 0 1 = 2156220 ∧ rpmDec 255 255 = 32 ∧ rpmDec 255 254 = 32 ∧
  rpmDec 5 0xCC = 1452 ∧ rpmDec 5 0xCD = 1452 ∧
  rpmDec 0x02 0x1C = 3993 ∧ rpmDec 0x03 0xE8 = 2156 ∧ rpmDec 0x01 0x00 = 8422 ∧
  (∀ h l : Byte, rawCombined h l > 0 → 32 ≤ rpmDec h l ∧ rpmDec h l ≤ 2156220) ∧
  (∀ h l h' l' : Byte, 0 < rawCombined h l → rawCombined h l ≤ rawCombined h' l' → rpmDec h' l' ≤ rpmDec h l) ∧
  (∀ h l h' l' : Byte, 0 < rawCombined h l → rawCombined h l < rawCombined h' l' → rawCombined h' l' ≤ 1484 →
    rpmDec h' l' < rpmDec h l)

/-- `TEMP_DEC` returns the byte as an unsigned integer (`42_codec.md` R138 with the spec's decision D12).
-/
def Obligations.TempDecIsUnsigned : Prop :=
  ∀ (raw : Byte) (s : State), s.top ≠ .exit → exec (.tempDec raw) s = .next { ecAdvance s with ret := .int raw.toNat }

/-- `SNAP_DECODE` decodes the bytes at the five parameter addresses (`42_codec.md` R140, `30_encoding.md`
R77), and an image of the EC's registers has each register's byte at its address. -/
def Obligations.SnapDecodeReadsTheFiveRegisters : Prop :=
  (∀ (img : Image) (s : State), s.top ≠ .exit →
    let f : Fields :=
      { duty := dutyDec (imageAt img s.cfg.board.regFanDuty)
        rpm := rpmDec (imageAt img s.cfg.board.regFanRpmHi) (imageAt img s.cfg.board.regFanRpmLo)
        cpuTemp := imageAt img s.cfg.board.regCpuTemp
        gpuTemp := imageAt img s.cfg.board.regGpuTemp }
    exec (.snapDecode img) s = .next { ecAdvance s with ret := .fields f }) ∧
  (∀ (m : Mem) (a : Byte), imageAt m.image a = m.read a)

/-! ## Thermal Control Algorithm -/

/-- `IDENTIFY_DUTY` returns the canonical level within 1 of its operand if there is one, and the operand
otherwise (`43_thermal.md` R150). -/
def Obligations.IdentifyDutySnapsWithinOne : Prop :=
  ∀ (x : Int) (s : State), s.top ≠ .exit →
    ∃ r, exec (.identifyDuty x) s = .next { ecAdvance s with ret := .int r } ∧
      (∀ level ∈ Config.canon, (x - level).natAbs ≤ 1 → r = level) ∧
      ((∀ level ∈ Config.canon, 1 < (x - level).natAbs) → r = x)

/-- `THRESHOLD` by temperature band and snapped duty: the table of `43_thermal.md` R153 as R154 evaluates
it, which the spec derives. -/
def Obligations.ThresholdByBand : Prop :=
  ∀ (t : Byte) (x : Int) (s : State), s.top ≠ .exit →
    let n := t.toNat
    let r : Target :=
      if n ≤ 50 then .duty 0
      else if n ≤ 54 then (if x ≥ 17 then .duty 17 else .noChange)
      else if n ≤ 60 then .duty 17
      else if n ≤ 64 then (if x < 17 then .duty 17 else if x < 30 then .noChange else .duty 30)
      else if n ≤ 70 then .duty 30
      else if n ≤ 74 then (if x < 30 then .duty 30 else if x < 40 then .noChange else .duty 40)
      else if n ≤ 80 then .duty 40
      else if n ≤ 84 then (if x < 40 then .duty 40 else if x < 65 then .noChange else .duty 65)
      else if n ≤ 85 then .duty 65
      else (if x < 65 then .duty 65 else .noChange)
    exec (.threshold t x) s = .next { ecAdvance s with ret := .target r }

/-- `NEXT_DUTY`: the hotter sensor and the snapped duty select the target; an escalation by more than 2
above the adjusted value is smoothed, everything else is the target itself (`43_thermal.md` R152, R156
with the spec's decision D11). -/
def Obligations.NextDutySmoothsEscalations : Prop :=
  ∀ (cpu gpu : Byte) (cur : Duty) (s : State), s.top ≠ .exit →
    ∃ r, exec (.nextDuty cpu gpu cur) s = .next { ecAdvance s with ret := .target r } ∧
      (threshold (max cpu.toNat gpu.toNat : Nat) (identifyDuty cur.val) = .noChange → r = .noChange) ∧
      (∀ target : Duty, threshold (max cpu.toNat gpu.toNat : Nat) (identifyDuty cur.val) = .duty target →
        let adjusted := identifyDuty cur.val + ((target.val : Int) - cur.val) / 2
        ∃ n : Duty, r = .duty n ∧
          (target.val > cur.val → (target.val : Int) - adjusted > 2 → (n.val : Int) = adjusted) ∧
          (target.val ≤ cur.val ∨ (target.val : Int) - adjusted ≤ 2 → n = target))

/-- The possible results of `NEXT_DUTY` are exactly `NoChange`, 0, 8..62 and 65 (`43_thermal.md` R158),
and an escalation makes progress and never passes its target (R157 (b), (c)); the spec derives both. -/
def Obligations.NextDutyRangeAndProgress : Prop :=
  (∀ r : Target, (∃ (cpu gpu : Byte) (cur : Duty), nextDuty cpu gpu cur = r) ↔
    (r = .noChange ∨ ∃ n : Duty, r = .duty n ∧ (n.val = 0 ∨ (8 ≤ n.val ∧ n.val ≤ 62) ∨ n.val = 65))) ∧
  (∀ (cpu gpu : Byte) (cur target n : Duty),
    threshold (maxTemp cpu gpu).toNat (identifyDuty cur.val) = .duty target → nextDuty cpu gpu cur = .duty n →
    (cur < target → cur < n ∧ n ≤ target) ∧ (target ≤ cur → n = target))

/-- At a constant temperature, with every written duty read back unchanged, the loop's decisions reach a
duty that the algorithm keeps, and it stays there (`43_thermal.md` R160, which the spec derives);
`CS.autoDuty` starts at 0, the default of `AUTO_DUTY_INIT`, and other values of it are left out (the spec's
decision D14). -/
def Obligations.LoopConverges : Prop :=
  ∀ (temp : Byte) (start : Duty),
    let c : ControlState := { cpuTemp := temp, gpuTemp := temp, curDuty := start, autoDuty := 0 }
    ∃ (k : Nat) (d : Duty), (nextDuty temp temp d = .noChange ∨ nextDuty temp temp d = .duty d) ∧
      ∀ m, k ≤ m → (idealTicks m c).curDuty = d

/-! ## Host commands -/

/-- Without privilege every valid host command ends the run with `PermissionDenied` and a nonzero status
before any port access; that error comes only from `ACQUIRE` and the commands that begin with it, only when
the privilege is missing; and with nothing on the issue port the machine logs it at start-up only
(`60_exceptions.md` R201). That an issued command raises it in any mode is the model's (log 12). -/
def Obligations.NoPrivilegeEndsTheRun : Prop :=
  (∀ (s : State) (i : Instr), s.top ≠ .exit → s.priv = false →
    (i = .dump ∨ i = .auto ∨ ∃ n, i = .setduty n) →
    exec i s = .next { ecAdvance s with log := s.log ++ [.permissionDenied], exit := some s.cfg.exitFail,
                                        top := .exit, csLive := false, ret := .err .permission }) ∧
  (∀ (s t : State) (i : Instr), exec i s = .next t → t.ret = .err .permission →
    s.priv = false ∧ (i = .acquire ∨ i = .dump ∨ i = .auto ∨ ∃ n, i = .setduty n)) ∧
  (∀ (s t : State) (evs : List Event), s.issue = none → step s = .next t → t.log = s.log ++ evs →
    .permissionDenied ∈ evs → s.top = .start ∧ s.priv = false ∧ t.trace = s.trace)

/-- An `INVALID` invocation is refused whatever the privilege, with `UsageError`, a nonzero status and no
port access (`60_exceptions.md` R206 (a), `44_control.md` R171 with the spec's decision D22). -/
def Obligations.InvalidCommandIsRefused : Prop :=
  ∀ s : State, s.top ≠ .exit →
    exec .invalid s =
      .next { ecAdvance s with log := s.log ++ [.usageError], exit := some s.cfg.exitFail, top := .exit,
                               csLive := false, ret := .err (.invalidInvocation s.invocation) }

/-- `POLLED_SNAPSHOT` makes the five reads in order and decodes their bytes; under `soft` all of them are
made and it always answers, under `hard` it ends at the first wait that timed out, with what was sent up to
there and nothing logged (`44_control.md` R172 with the spec's decision D13, `41_handshake.md` R118). -/
def Obligations.PolledSnapshotReadsFiveRegisters : Prop :=
  ∀ s : State, s.top ≠ .exit → s.acquired = true →
    ∃ failed w tr evs t, exec .polledSnapshot s = .next t ∧ t.trace = s.trace ++ tr ∧ t.log = s.log ++ evs ∧
      PolledRun s.cfg w failed tr evs ∧
      (failed = none → t.ret = .fields t.fields ∧ t.fields = decodeRaws t.raws ∧ t.raws = w) ∧
      (∀ i, failed = some i → t.ret = .err (.timeout i) ∧ t.fields = s.fields) ∧
      t = { s with main := { t.main with hs := .idle, late := false, dataL := s.main.dataL }, fields := t.fields,
                   raws := t.raws, ec := t.ec, env := t.env, trace := t.trace, log := t.log, ret := t.ret }

/-- `DUMP` with privilege: one polled snapshot, its dump, `EXIT = 0`; under `hard` the first wait that timed
out ends the snapshot, is logged, and `EXIT = EXIT_FAIL` instead. It writes no duty, arms no guard and makes
no Control State (`44_control.md` R173 with the spec's decision D29). -/
def Obligations.DumpReportsAndExits : Prop :=
  ∀ s : State, s.top ≠ .exit → s.priv = true →
    ∃ failed w tr evs t, exec .dump s = .next t ∧ t.trace = s.trace ++ tr ∧ PolledRun s.cfg w failed tr evs ∧
      (failed = none → t.log = s.log ++ evs ++ [dumpEvent t.fields] ∧ t.exit = some 0 ∧ t.ret = .fields t.fields ∧
        t.fields = decodeRaws t.raws ∧ t.raws = w) ∧
      (∀ i, failed = some i → t.log = s.log ++ [.timeoutLogged .main i] ∧ t.exit = some s.cfg.exitFail ∧
        t.ret = .err (.timeout i) ∧ t.fields = s.fields) ∧
      t = { s with acquired := true, cmd := .dump, top := .exit, phase := t.phase, csLive := false,
                   main := { t.main with hs := .idle, late := false, dataL := s.main.dataL }, fields := t.fields,
                   raws := t.raws, ec := t.ec, env := t.env, trace := t.trace, log := t.log, exit := t.exit,
                   ret := t.ret }

/-- `SETDUTY(n)` with privilege: one write of the encoded duty; if it times out, that is logged and the
run ends with `EXIT_FAIL` and no snapshot; otherwise the snapshot, its dump and `EXIT = 0`, or, under
`hard`, the first read timeout as in `DUMP`; no second duty is written (`44_control.md` R174 with the spec's
decisions D25 and D30). -/
def Obligations.SetdutyWritesThenReports : Prop :=
  ∀ (s : State) (n : Duty), s.top ≠ .exit → s.priv = true →
    ∃ failed tr t, exec (.setduty n) s = .next t ∧
      FailFastTrace s.cfg (writeParts s.cfg s.cfg.board.fanDutyWrAddr (dutyEnc n)) failed tr ∧
      (∀ i, failed = some i → t.trace = s.trace ++ tr ∧ t.log = s.log ++ [.timeoutLogged .main i] ∧
        t.exit = some s.cfg.exitFail ∧ t.ret = .err (.timeout i) ∧ t.fields = s.fields ∧ t.raws = s.raws) ∧
      (failed = none → ∃ failed' w tr' evs, t.trace = s.trace ++ tr ++ tr' ∧
        PolledRun s.cfg w failed' tr' evs ∧
        (failed' = none → t.log = s.log ++ evs ++ [dumpEvent t.fields] ∧ t.exit = some 0 ∧
          t.ret = .fields t.fields ∧ t.fields = decodeRaws t.raws ∧ t.raws = w) ∧
        (∀ i, failed' = some i → t.log = s.log ++ [.timeoutLogged .main i] ∧ t.exit = some s.cfg.exitFail ∧
          t.ret = .err (.timeout i) ∧ t.fields = s.fields)) ∧
      t = { s with acquired := true, cmd := .setduty n, top := .exit, phase := t.phase, csLive := false,
                   main := { t.main with hs := .idle, late := false, dataL := dutyEnc n }, fields := t.fields,
                   raws := t.raws, ec := t.ec, env := t.env, trace := t.trace, log := t.log, exit := t.exit,
                   ret := t.ret }

/-- `AUTO` with privilege: the Running Flag is set, the Control State created and the guard armed, and the
loop stands at its head (`44_control.md` R178, R179 with the spec's decisions D14 and D17). The admission and
the start-up are a step each, with the EC's own steps after it (log 13). -/
def Obligations.AutoStartsTheLoop : Prop :=
  ∀ s : State, s.top ≠ .exit → s.priv = true →
    exec .auto s = .next { ecAdvance (ecAdvance s) with
      acquired := true, cmd := .auto, top := .auto, phase := .lHead, run := true, armed := true, csLive := true,
      cs := { cpuTemp := 0, gpuTemp := 0, curDuty := 0, autoDuty := s.cfg.autoDutyInit }, ret := .ok }

/-! ## Control Loop -/

/-- `SNAP_READ` by the platform's answer, scripted or free; a full answer is the register file at this
instant, and no answer changes anything in the EC, which changes by its own steps only (`44_control.md`
R176, `20_memory.md` R54, R55, R62). The length of a full answer is what counts (log 8). -/
def Obligations.SnapReadByAnswer : Prop :=
  ∀ s : State, s.top ≠ .exit →
    ∃ t, exec .snapRead s = .next t ∧ EcTurns s.cfg s.ec t.ec ∧ t.env.snaps = s.env.snaps.tail ∧
      (nextSnap s = .openFail → t.ret = .err (.io true) ∧ t.snap = s.snap) ∧
      (nextSnap s = .readError → t.ret = .err (.io false) ∧ t.snap = s.snap) ∧
      (∀ bs, nextSnap s = .bytes bs → bs.length ≠ 256 →
        t.ret = .err (.sizeMismatch bs.length) ∧ t.snap = s.snap) ∧
      (∀ bs, nextSnap s = .bytes bs → bs.length = 256 →
        t.ret = .image t.snap ∧ ∀ a, imageAt t.snap a = s.ec.regs.read a) ∧
      t = { s with snap := t.snap, ec := t.ec, env := t.env, ret := t.ret }

/-- `TICK` completes whatever the environment does: no data read, at most one write transaction, of an
encoded duty to the duty address, and the loop back at its head or ended; GUARD's state, the one-shot
registers and the flags but `csLive` are kept (`44_control.md` R180 to R187 with the spec's decisions D15
to D17). -/
def Obligations.TickDoesAtMostOneWrite : Prop :=
  ∀ s : State, s.top ≠ .exit → s.acquired = true →
    ∃ tr evs t, exec .tick s = .next t ∧ t.trace = s.trace ++ tr ∧ dataBytesIn tr = [] ∧
      (∃ n : Duty, sentIn tr <+: sentBytes s.cfg (.ecWrite s.cfg.board.fanDutyWrAddr (dutyEnc n))) ∧
      t.log = s.log ++ evs ∧ evs.length ≤ 1 ∧
      (t.top = .exit ∨ (t.phase = .lHead ∧ t.exit = s.exit ∧ t.top = s.top)) ∧
      t = { s with top := t.top, phase := t.phase, main := t.main, csLive := t.csLive, cs := t.cs,
                   pending := t.pending, snap := t.snap, log := t.log, exit := t.exit, ec := t.ec, env := t.env,
                   trace := t.trace, ret := t.ret }

/-- A tick whose snapshot fails softly, by a scripted or a free answer, leaves the Control State as it was,
makes no port access and logs the failure (`60_exceptions.md` R204, R205, `44_control.md` R181); that the
decision is not run is the spec's own decision D15 (log 23). The answer is the one after the EC's own steps
that follow `L_HEAD`. -/
def Obligations.SoftSnapshotFailureSkipsTheTick : Prop :=
  ∀ s : State, s.top ≠ .exit → s.run = true →
    (nextSnap (ecAdvance s) = .readError → ∃ t, exec .tick s = .next t ∧ t.log = s.log ++ [.snapReadError] ∧
      EcTurns s.cfg s.ec t.ec ∧
      t = { s with phase := .lHead, log := t.log, ec := t.ec, env := t.env, ret := .ok }) ∧
    (∀ bs, nextSnap (ecAdvance s) = .bytes bs → bs.length ≠ 256 → ∃ t, exec .tick s = .next t ∧
      t.log = s.log ++ [.sizeMismatch bs.length] ∧ EcTurns s.cfg s.ec t.ec ∧
      t = { s with phase := .lHead, log := t.log, ec := t.ec, env := t.env, ret := .ok })

/-- A tick whose snapshot interface cannot be opened, by a scripted or a free answer, ends the run with
`EXIT_FAIL`, and no safe duty is written: there is no port access (`44_control.md` R181 with the spec's
decision D31, `60_exceptions.md` R204, vector V44-7). -/
def Obligations.OpenFailureEndsTheRun : Prop :=
  ∀ s : State, s.top ≠ .exit → s.run = true → nextSnap (ecAdvance s) = .openFail →
    ∃ t, exec .tick s = .next t ∧ t.log = s.log ++ [.snapOpenError] ∧ EcTurns s.cfg s.ec t.ec ∧
      t = { s with phase := t.phase, top := .exit, exit := some s.cfg.exitFail, csLive := false, log := t.log,
                   ec := t.ec, env := t.env, ret := .ok }

/-- A tick with a full snapshot stores the decoded temperatures and duty; where the algorithm answers
`NoChange`, or a duty that needs no write, nothing is written and the last auto-selected duty is kept;
otherwise the duty is written, recorded and logged on success, and only the timeout is logged on failure
(`44_control.md` R181, R182, R183 with the spec's decision D16). The image is the EC's register file after
its own steps that follow `L_HEAD` (`20_memory.md` R55); of the answer, scripted or free, the length alone
counts (log 8). -/
def Obligations.TickDecidesAndWrites : Prop :=
  ∀ (s : State) (bs : List Byte), s.top ≠ .exit → s.acquired = true → s.run = true →
    nextSnap (ecAdvance s) = .bytes bs → bs.length = 256 →
    let f := snapDecode s.cfg (ecAdvance s).ec.regs.image
    let cs := { s.cs with cpuTemp := f.cpuTemp, gpuTemp := f.gpuTemp, curDuty := f.duty }
    let result := nextDuty f.cpuTemp f.gpuTemp f.duty
    ∃ t, exec .tick s = .next t ∧ t.phase = .lHead ∧ t.top = s.top ∧ t.exit = s.exit ∧
      (result = .noChange → t.cs = cs ∧ t.trace = s.trace ∧ t.log = s.log) ∧
      (∀ n : Duty, result = .duty n → (n.val : Int) = cs.autoDuty → (n ≠ 0 ∨ cs.curDuty = 0) →
        t.cs = cs ∧ t.trace = s.trace ∧ t.log = s.log) ∧
      (∀ n : Duty, result = .duty n → (n.val : Int) ≠ cs.autoDuty ∨ (n = 0 ∧ cs.curDuty ≠ 0) →
        ∃ failed tr, t.trace = s.trace ++ tr ∧ t.pending = n ∧
          FailFastTrace s.cfg (writeParts s.cfg s.cfg.board.fanDutyWrAddr (dutyEnc n)) failed tr ∧
          (failed = none → t.cs = { cs with autoDuty := n.val } ∧
            ∃ time, t.log = s.log ++ [.transition f.cpuTemp f.gpuTemp n time]) ∧
          (∀ i, failed = some i → t.cs = cs ∧ t.log = s.log ++ [.timeoutLogged .main i]))

/-- The Running Flag is read at the head of the loop: cleared, the run ends with 0 and the Control State
is discarded; and once armed it can only have been cleared by a guard that is done, when the loop takes
that exit (`44_control.md` R180, R186, which the spec derives). The premise of the second part is the
invariant of `InvariantKeptByEveryStep`. -/
def Obligations.LoopEndsAtItsHead : Prop :=
  (∀ s : State, s.top ≠ .exit → s.run = false →
    exec .tick s = .next { ecAdvance s with exit := some 0, top := .exit, csLive := false, ret := .ok }) ∧
  (∀ s : State, Inv s → s.issue = none → s.top = .auto → s.armed = true → s.phase = .lHead → s.run = false →
    (∀ pos, s.g ≠ .active pos) →
    s.g = .done ∧ step s = .next { ecAdvance s with exit := some 0, top := .exit, csLive := false })

/-! ## The stop request and the Shutdown Guard -/

/-- An accepted stop request clears the Running Flag and issues exactly one write of the safe duty 40 from
the guard's own latches; on success the guard is done and the run goes on, on a timeout the run ends with
`EXIT_FAIL`; nothing of MAIN changes but that end; and it makes no difference which signal came
(`60_exceptions.md` R210 to R214, R216; the failure is the spec's decision D20). -/
def Obligations.GuardWritesTheSafeDuty : Prop :=
  ∀ (s : State) (signal : StopSignal), s.top ≠ .exit → s.acquired = true → s.armed = true →
    s.guardTaken = false →
    (∀ other : StopSignal, exec (.guard other) s = exec (.guard signal) s) ∧
    ∃ failed tr t, exec (.guard signal) s = .next t ∧ t.trace = s.trace ++ tr ∧
      FailFastTrace s.cfg (writeParts s.cfg s.cfg.board.fanDutyWrAddr 102) failed tr ∧
      t.run = false ∧ t.guardTaken = true ∧ MainKept s t ∧
      (failed = none → t.ret = .ok ∧ t.g = .done ∧ t.exit = s.exit ∧ t.top = s.top ∧ t.csLive = s.csLive ∧
        t.log = s.log) ∧
      (∀ i, failed = some i → t.ret = .err (.timeout i) ∧ t.exit = some s.cfg.exitFail ∧ t.top = .exit ∧
        t.log = s.log ++ [.timeoutLogged .guard i]) ∧
      t = { s with run := false, guardTaken := true, g := t.g, guard := t.guard, top := t.top, exit := t.exit,
                   csLive := t.csLive, log := t.log, ec := t.ec, env := t.env, trace := t.trace, ret := t.ret }

/-- A stop request while the guard is not armed, or after one was accepted, has no effect
(`60_exceptions.md` R211 with the spec's decision D19); the premises P-ONESTOP and P-NOSTOP-UNARMED of log
14 are not needed for it. -/
def Obligations.OtherStopRequestsHaveNoEffect : Prop :=
  ∀ (s : State) (signal : StopSignal), s.top ≠ .exit → s.armed = false ∨ s.guardTaken = true →
    exec (.guard signal) s = .next { s with ret := .none }

/-- A stop request that stands at a boundary of MAIN enters the guard at once, at any position of MAIN,
with nothing of MAIN changed, unless the step MAIN is about to take writes `EXIT` (`60_exceptions.md` R208
(c), R211, R213 with the spec's decisions D18 and D22). The guard's first step follows the entry in the
same step of the model (log 14), and which step would write `EXIT` is judged as log 15 says: by taking it now,
so that a request before a bulk read that is going to fail enters the guard. -/
def Obligations.GuardEntersAtAnyBoundary : Prop :=
  ∀ (s : State) (signal : StopSignal) (rest : List (Option StopSignal)), s.top ≠ .exit → s.issue = none →
    s.armed = true → s.guardTaken = false → s.g = .idle → s.env.stops = some signal :: rest →
    let u := { s with env := { s.env with stops := rest, drawn := s.env.drawn + 1 } }
    (writesExit (mainStep u) = false →
      step s = .next (ecAdvance { u with guardTaken := true, run := false, g := .active .write })) ∧
    (writesExit (mainStep u) = true → ∃ t, mainStep u = .next ((), t) ∧ step s = .next t ∧
      t.top = .exit ∧ t.guardTaken = false)

/-- While the guard is active MAIN takes no step: nothing of MAIN changes, its mode and the Control State's
existence included, and the guard stays active or is done, with nothing logged; but where its write has
failed, the run ends with `EXIT_FAIL` and the timeout is logged (`60_exceptions.md` R213, R214, R215 with the
spec's decisions D18 and D20, `10_state.md` R15). That nothing is logged has the invariant of
`InvariantKeptByEveryStep` as its premise: the guard makes no read. -/
def Obligations.GuardFreezesMain : Prop :=
  ∀ (s t : State) (pos : GuardPos), s.issue = none → s.g = .active pos → step s = .next t →
    MainKept s t ∧
    ((∀ i, pos ≠ .failed i) → t.top = s.top ∧ t.exit = s.exit ∧ t.csLive = s.csLive ∧ (Inv s → t.log = s.log) ∧
      ((∃ pos', t.g = .active pos') ∨ t.g = .done)) ∧
    (∀ i, pos = .failed i → t.top = .exit ∧ t.exit = some s.cfg.exitFail ∧ t.csLive = false ∧
      t.log = s.log ++ [.timeoutLogged .guard i] ∧ t.trace = s.trace)

/-! ## Invariants of the whole machine -/

/-- The invariant holds at reset. -/
def Obligations.InvariantAtReset : Prop := Inv State.reset

/-- Every step keeps the invariant: the EC register file stays canonical, `pollN` stays within 0..100, a
mode and an armed guard imply a successful `ACQUIRE`, `EXIT` is written exactly at `T_EXIT`, the guard is
one-shot and taken only while armed, only the guard clears the Running Flag of an armed loop, and the guard makes no read. Each
clause of `Inv` names its rule; the canonical form is the model's (log 7). -/
def Obligations.InvariantKeptByEveryStep : Prop :=
  ∀ s t : State, Inv s → step s = .next t → Inv t

/-- No step changes the configuration, the invocation, the privilege or the kind of EC; the log and the trace
only grow; `acquired`, `armed`, `guardTaken` and the EC's corruption are never cleared (`10_state.md` R18,
R19, R21, R24, `20_memory.md` R50, log 26). -/
def Obligations.EveryStepOnlyGrows : Prop :=
  ∀ s t : State, step s = .next t → Grows s t

/-- In a state of the invariant with no operation on the issue port, the machine always has a next step
until `EXIT` is written: whatever the EC, the platform and the signals do (`20_memory.md` R46). -/
def Obligations.TheMachineNeverStops : Prop :=
  ∀ s : State, Inv s → s.issue = none → s.top ≠ .exit → ∃ t, step s = .next t

/-! ## Whole operations and their steps agree -/

/-- The handshake table of `EC_WRITE`, run step by step from its start, ends in the same state and with
the same result as the whole operation of `41_handshake.md` R113 (R114, which the spec derives, against
R113), in either context, for every address and value. -/
def Obligations.WriteTableRefinesEcWrite : Prop :=
  ∀ (ctx : Ctx) (a v : Byte) (s : State),
    runHandshake ctx 403 (beginWrite ctx a v s) =
      andThen (ecWrite ctx a v s) fun r t => .next (progressOf r, t)

/-- The handshake table of `EC_READ`, run step by step, agrees with the whole operation of
`41_handshake.md` R116 and R118 (R117, which the spec derives, against R116), in either context; the event of
a soft timeout is a step of its own (`10_state.md` R16). -/
def Obligations.ReadTableRefinesEcRead : Prop :=
  ∀ (ctx : Ctx) (a : Byte) (s : State),
    runHandshake ctx 306 (beginRead ctx a s) =
      andThen (ecRead ctx a s) fun r t => .next (progressOf r, t)

/-- One pass of the Control Loop, step by step from its head with MAIN's sequencer idle and no stop
request between, ends in the same state as `TICK` as a whole (`44_control.md` R180 to R186; the steps are
the model's reading of `10_state.md` R16, log 13). -/
def Obligations.LoopStepsRefineTick : Prop :=
  ∀ s : State, s.top = .auto → s.phase = .lHead → s.main.hs = .idle → s.acquired = true →
    ∃ (k : Nat) (t : State), runTick s = .next ((), t) ∧ runMain k s = .next ((), t) ∧
      exec .tick s = .next { t with ret := .ok }

/-- A run from start-up with no stop request, step by step, ends in the same state as its host command as a
whole: the one-shot commands and the refused one at `T_EXIT`, `AUTO` at the head of the loop (`44_control.md`
R170 to R174, R178, `60_exceptions.md` R206; the steps are the model's reading of `10_state.md` R16, logs 12
and 13). -/
def Obligations.StartupStepsRefineTheCommand : Prop :=
  ∀ s : State, s.top = .start → s.issue = none → s.g = .idle → s.armed = false → s.main.hs = .idle →
    ∃ (k : Nat) (t : State) (r : Ret), runSteps k s = .next t ∧
      exec (decodeInvocation s.invocation).instr s = .next { t with ret := r } ∧
      (t.top = .exit ∨ (t.top = .auto ∧ t.phase = .lHead))

/-- The guard's handler, step by step from its entry, ends in the same state as `GUARD` as a whole: done, or
with the run ended (`60_exceptions.md` R212 to R215; logs 12 to 14). -/
def Obligations.GuardStepsRefineTheHandler : Prop :=
  ∀ (s : State) (signal : StopSignal), s.top ≠ .exit → s.issue = none → s.acquired = true → s.armed = true →
    s.guardTaken = false → s.guard.hs = .idle →
    ∃ (k : Nat) (t : State) (r : Ret), runSteps k (enterGuard s) = .next t ∧
      exec (.guard signal) s = .next { t with ret := r } ∧ (t.g = .done ∨ t.top = .exit)
end

