-- ==== Sys2Proof/Laws/Mem.lean ====
section
/-! SUPPORT. The EC register file: read after write, and the canonical form kept by every operation on
it, by every move of the EC and by every access of ECHC. -/

namespace Sys2Proof.Machine

/-- Read after write: the written address has the written value, every other address its own. -/
theorem Mem.lookup_put (m : Mem) (lo a x : Nat) (v : Byte) (h : m.wfFrom lo = true) :
    Mem.lookup (m.put a v) x = if x = a then v else Mem.lookup m x := by
  induction m generalizing lo with
  | nil =>
    simp only [Mem.put]
    split
    · simp_all [Mem.lookup]
    · simp [Mem.lookup, eq_comm]
  | cons c rest ih =>
    obtain ⟨k, w⟩ := c
    simp only [Mem.wfFrom, Bool.and_eq_true, decide_eq_true_eq] at h
    have below : ∀ (r : Mem) (l y : Nat), r.wfFrom l = true → y < l → Mem.lookup r y = Mem.unlisted := by
      intro r
      induction r with
      | nil => intros; rfl
      | cons d r ihr =>
        intro l y hr hy
        simp only [Mem.wfFrom, Bool.and_eq_true, decide_eq_true_eq] at hr
        simp only [Mem.lookup]
        rw [if_neg (by omega), ihr _ _ hr.2 (by omega)]
    have hnotin := below rest (k + 1)
    simp only [Mem.put]
    split
    · split
      · by_cases hx : x = a
        · subst hx
          simp only [Mem.lookup, if_true]
          rw [if_neg (by omega), hnotin _ h.2 (by omega)]
          simp_all
        · simp [hx]
      · by_cases hx : x = a
        · simp [Mem.lookup, hx]
        · simp [Mem.lookup, hx, Ne.symm hx]
    · split
      · subst_vars
        split
        · by_cases hx : x = k
          · subst hx; simp [hnotin x h.2 (by omega), *]
          · simp [Mem.lookup, hx, Ne.symm hx]
        · by_cases hx : x = k
          · simp [Mem.lookup, hx]
          · simp [Mem.lookup, hx, Ne.symm hx]
      · rename_i h1 h2
        simp only [Mem.lookup, ih _ h.2]
        by_cases hk : k = x
        · have : ¬ x = a := by omega
          simp [hk, this]
        · simp [hk]

/-- A write keeps the canonical form. -/
theorem Mem.wfFrom_put (m : Mem) (lo a : Nat) (v : Byte) (h : m.wfFrom lo = true) (hlo : lo ≤ a)
    (ha : a < 256) : (m.put a v).wfFrom lo = true := by
  induction m generalizing lo with
  | nil => simp only [Mem.put]; split <;> simp_all [Mem.wfFrom]
  | cons c rest ih =>
    obtain ⟨k, w⟩ := c
    simp only [Mem.wfFrom, Bool.and_eq_true, decide_eq_true_eq] at h
    have weaken : ∀ (r : Mem) (l l' : Nat), r.wfFrom l' = true → l ≤ l' → r.wfFrom l = true := by
      intro r l l' hr hl
      cases r with
      | nil => rfl
      | cons d r =>
        simp only [Mem.wfFrom, Bool.and_eq_true, decide_eq_true_eq] at hr ⊢
        exact ⟨⟨⟨by omega, hr.1.1.2⟩, hr.1.2⟩, hr.2⟩
    simp only [Mem.put]
    split
    · split
      · simp_all [Mem.wfFrom]
      · simp_all [Mem.wfFrom]
    · split
      · split
        · exact weaken _ _ _ h.2 (by omega)
        · simp_all [Mem.wfFrom]
      · simp only [Mem.wfFrom, Bool.and_eq_true, decide_eq_true_eq]
        exact ⟨h.1, ih _ h.2 (by omega)⟩

/-- A register write keeps the canonical form. -/
theorem Mem.wf_write (m : Mem) (a v : Byte) (h : m.wf = true) : (m.write a v).wf = true :=
  Mem.wfFrom_put m 0 a.toNat v h (Nat.zero_le _) a.isLt

/-- Reading a register after writing one. -/
theorem Mem.read_write (m : Mem) (a x v : Byte) (h : m.wf = true) :
    (m.write a v).read x = if x = a then v else m.read x := by
  simp only [Mem.read, Mem.write, Mem.lookup_put m 0 _ _ _ h, BitVec.toNat_inj]

/-- Byte `a` of the image is register `a` (R77). -/
theorem imageAt_image (m : Mem) (a : Byte) : imageAt m.image a = m.read a := by
  simp [imageAt, Mem.image, Mem.read]

/-- The reference responder's store keeps the canonical form. -/
theorem Ec.store_wf (c : Config) (a v : Byte) (m : Mem) (h : m.wf = true) : (Ec.store c a v m).wf = true := by
  unfold Ec.store
  split
  · exact Mem.wf_write _ _ _ (Mem.wf_write _ _ _ h)
  · exact Mem.wf_write _ _ _ h

/-- Every move of the EC keeps the canonical form. -/
theorem Ec.move_wf (c : Config) (m : EcMove) (e : Ec) (h : e.regs.wf = true) :
    (Ec.move c m e).regs.wf = true := by
  cases m with
  | sense a v =>
    simp only [Ec.move]
    split
    · exact h
    · exact Mem.wf_write _ _ _ h
  | produce => simp only [Ec.move]; split <;> exact h
  | drop => simp only [Ec.move]; split <;> exact h
  | consume =>
    simp only [Ec.move, Ec.consumeCommand, Ec.consumeData]
    repeat' split
    all_goals first | exact h | exact Ec.store_wf _ _ _ _ h
  | take =>
    simp only [Ec.move, Ec.consumeCommand, Ec.takeData]
    repeat' split
    all_goals exact h

/-- No move changes the kind of EC. -/
theorem Ec.move_reference (c : Config) (m : EcMove) (e : Ec) : (Ec.move c m e).reference = e.reference := by
  cases m <;> simp only [Ec.move, Ec.consumeCommand, Ec.consumeData, Ec.takeData] <;> repeat' split
  all_goals rfl

/-- No move ends the corrupt state (R50). -/
theorem Ec.move_corrupt (c : Config) (m : EcMove) (e : Ec) (h : e.corrupt = true) :
    (Ec.move c m e).corrupt = true := by
  cases m with
  | consume => simp only [Ec.move, h, Bool.not_true, Bool.and_false, Bool.false_eq_true, if_false]
  | take => simp only [Ec.move, h, Bool.not_true, Bool.and_false, Bool.false_and, Bool.false_eq_true, if_false]
  | _ => simp only [Ec.move]; split <;> exact h

/-- What every move keeps, several moves keep. -/
theorem Ec.moves_keep {P : Ec → Prop} (c : Config) (hP : ∀ m e, P e → P (Ec.move c m e)) (ms : List EcMove)
    (e : Ec) (h : P e) : P (Ec.moves c ms e) := by
  induction ms generalizing e with
  | nil => exact h
  | cons m rest ih => exact ih _ (hP m e h)

/-- Several writes keep the canonical form. -/
theorem Ec.scatter_wf (ws : List (Byte × Byte)) (m : Mem) (h : m.wf = true) : (Ec.scatter ws m).wf = true := by
  induction ws generalizing m with
  | nil => exact h
  | cons w rest ih => exact ih _ (Mem.wf_write _ _ _ h)

/-- What the EC's own steps at a boundary are: its moves, and, for a corrupt one, writes besides. -/
theorem Ec.turn_cases (c : Config) (ms : List EcMove) (ws : List (Byte × Byte)) (e : Ec) :
    Ec.turn c ms ws e = Ec.moves c ms e ∨
    ((Ec.moves c ms e).corrupt = true ∧
      Ec.turn c ms ws e = { Ec.moves c ms e with regs := Ec.scatter ws (Ec.moves c ms e).regs }) := by
  unfold Ec.turn
  dsimp only
  split
  · rename_i h
    exact .inr ⟨(Bool.and_eq_true_iff.mp h).1, rfl⟩
  · exact .inl rfl

/-- An EC that is not corrupt after its moves has made nothing but them. -/
theorem Ec.turn_sound (c : Config) (ms : List EcMove) (ws : List (Byte × Byte)) (e : Ec)
    (h : (Ec.moves c ms e).corrupt = false) : Ec.turn c ms ws e = Ec.moves c ms e := by
  rcases Ec.turn_cases c ms ws e with h' | ⟨h', -⟩
  · exact h'
  · rw [h] at h'; cases h'

theorem Ec.turn_wf (c : Config) (ms : List EcMove) (ws : List (Byte × Byte)) (e : Ec) (h : e.regs.wf = true) :
    (Ec.turn c ms ws e).regs.wf = true := by
  have hm := Ec.moves_keep (P := fun e => e.regs.wf = true) c (fun m e => Ec.move_wf c m e) ms e h
  rcases Ec.turn_cases c ms ws e with h' | ⟨-, h'⟩
  · rw [h']; exact hm
  · rw [h']; exact Ec.scatter_wf ws _ hm

theorem Ec.turn_reference (c : Config) (ms : List EcMove) (ws : List (Byte × Byte)) (e : Ec) :
    (Ec.turn c ms ws e).reference = e.reference := by
  have hm := Ec.moves_keep (P := fun x => x.reference = e.reference) c
    (fun m x hx => (Ec.move_reference c m x).trans hx) ms e rfl
  rcases Ec.turn_cases c ms ws e with h' | ⟨-, h'⟩ <;> rw [h'] <;> exact hm

theorem Ec.turn_corrupt (c : Config) (ms : List EcMove) (ws : List (Byte × Byte)) (e : Ec)
    (h : e.corrupt = true) : (Ec.turn c ms ws e).corrupt = true := by
  have hm := Ec.moves_keep (P := fun e => e.corrupt = true) c (fun m e => Ec.move_corrupt c m e) ms e h
  rcases Ec.turn_cases c ms ws e with h' | ⟨-, h'⟩ <;> rw [h'] <;> exact hm

/-- A byte received changes no register and keeps the kind of EC; a corrupt EC stays so. -/
@[simp] theorem Ec.receive_regs (p : Port) (v : Byte) (e : Ec) : (Ec.receive p v e).regs = e.regs := by
  unfold Ec.receive
  split <;> rfl

@[simp] theorem Ec.receive_reference (p : Port) (v : Byte) (e : Ec) :
    (Ec.receive p v e).reference = e.reference := by
  unfold Ec.receive
  split <;> rfl

theorem Ec.receive_corrupt (p : Port) (v : Byte) (e : Ec) (h : e.corrupt = true) :
    (Ec.receive p v e).corrupt = true := by
  unfold Ec.receive
  split
  · rfl
  · simp [h]

@[simp] theorem Ec.abandon_regs (e : Ec) : (Ec.abandon e).regs = e.regs := rfl
@[simp] theorem Ec.abandon_reference (e : Ec) : (Ec.abandon e).reference = e.reference := rfl

theorem Ec.abandon_corrupt (e : Ec) (h : e.corrupt = true) : (Ec.abandon e).corrupt = true := by
  simp [Ec.abandon, h]

/-- An abandoned transaction leaves an EC of the contract corrupt (R50). -/
theorem Ec.abandon_contract (e : Ec) (h : e.reference = false) : (Ec.abandon e).corrupt = true := by
  simp [Ec.abandon, h]

/-- Memory at reset is canonical. -/
theorem reset_mem_wf : State.reset.ec.regs.wf = true := by decide

end Sys2Proof.Machine
end

