-- ==== Sys2Proof/Laws/State.lean ====
section
/-! SUPPORT. One lemma per field per update of State, each true by rfl, so that no proof unfolds a
record update. -/

namespace Sys2Proof.Machine

/-! ### emit -/

@[simp] theorem emit_cfg (e : Event) (s : State) : (emit e s).cfg = s.cfg := rfl
@[simp] theorem emit_invocation (e : Event) (s : State) : (emit e s).invocation = s.invocation := rfl
@[simp] theorem emit_priv (e : Event) (s : State) : (emit e s).priv = s.priv := rfl
@[simp] theorem emit_env (e : Event) (s : State) : (emit e s).env = s.env := rfl
@[simp] theorem emit_issue (e : Event) (s : State) : (emit e s).issue = s.issue := rfl
@[simp] theorem emit_cmd (e : Event) (s : State) : (emit e s).cmd = s.cmd := rfl
@[simp] theorem emit_top (e : Event) (s : State) : (emit e s).top = s.top := rfl
@[simp] theorem emit_phase (e : Event) (s : State) : (emit e s).phase = s.phase := rfl
@[simp] theorem emit_main (e : Event) (s : State) : (emit e s).main = s.main := rfl
@[simp] theorem emit_g (e : Event) (s : State) : (emit e s).g = s.g := rfl
@[simp] theorem emit_guard (e : Event) (s : State) : (emit e s).guard = s.guard := rfl
@[simp] theorem emit_run (e : Event) (s : State) : (emit e s).run = s.run := rfl
@[simp] theorem emit_acquired (e : Event) (s : State) : (emit e s).acquired = s.acquired := rfl
@[simp] theorem emit_armed (e : Event) (s : State) : (emit e s).armed = s.armed := rfl
@[simp] theorem emit_guardTaken (e : Event) (s : State) : (emit e s).guardTaken = s.guardTaken := rfl
@[simp] theorem emit_csLive (e : Event) (s : State) : (emit e s).csLive = s.csLive := rfl
@[simp] theorem emit_cs (e : Event) (s : State) : (emit e s).cs = s.cs := rfl
@[simp] theorem emit_pending (e : Event) (s : State) : (emit e s).pending = s.pending := rfl
@[simp] theorem emit_snap (e : Event) (s : State) : (emit e s).snap = s.snap := rfl
@[simp] theorem emit_fields (e : Event) (s : State) : (emit e s).fields = s.fields := rfl
@[simp] theorem emit_raws (e : Event) (s : State) : (emit e s).raws = s.raws := rfl
@[simp] theorem emit_log (e : Event) (s : State) : (emit e s).log = s.log ++ [e] := rfl
@[simp] theorem emit_exit (e : Event) (s : State) : (emit e s).exit = s.exit := rfl
@[simp] theorem emit_ec (e : Event) (s : State) : (emit e s).ec = s.ec := rfl
@[simp] theorem emit_trace (e : Event) (s : State) : (emit e s).trace = s.trace := rfl
@[simp] theorem emit_ret (e : Event) (s : State) : (emit e s).ret = s.ret := rfl

/-! ### record -/

@[simp] theorem record_cfg (a : Access) (s : State) : (record a s).cfg = s.cfg := rfl
@[simp] theorem record_invocation (a : Access) (s : State) : (record a s).invocation = s.invocation := rfl
@[simp] theorem record_priv (a : Access) (s : State) : (record a s).priv = s.priv := rfl
@[simp] theorem record_env (a : Access) (s : State) : (record a s).env = s.env := rfl
@[simp] theorem record_issue (a : Access) (s : State) : (record a s).issue = s.issue := rfl
@[simp] theorem record_cmd (a : Access) (s : State) : (record a s).cmd = s.cmd := rfl
@[simp] theorem record_top (a : Access) (s : State) : (record a s).top = s.top := rfl
@[simp] theorem record_phase (a : Access) (s : State) : (record a s).phase = s.phase := rfl
@[simp] theorem record_main (a : Access) (s : State) : (record a s).main = s.main := rfl
@[simp] theorem record_g (a : Access) (s : State) : (record a s).g = s.g := rfl
@[simp] theorem record_guard (a : Access) (s : State) : (record a s).guard = s.guard := rfl
@[simp] theorem record_run (a : Access) (s : State) : (record a s).run = s.run := rfl
@[simp] theorem record_acquired (a : Access) (s : State) : (record a s).acquired = s.acquired := rfl
@[simp] theorem record_armed (a : Access) (s : State) : (record a s).armed = s.armed := rfl
@[simp] theorem record_guardTaken (a : Access) (s : State) : (record a s).guardTaken = s.guardTaken := rfl
@[simp] theorem record_csLive (a : Access) (s : State) : (record a s).csLive = s.csLive := rfl
@[simp] theorem record_cs (a : Access) (s : State) : (record a s).cs = s.cs := rfl
@[simp] theorem record_pending (a : Access) (s : State) : (record a s).pending = s.pending := rfl
@[simp] theorem record_snap (a : Access) (s : State) : (record a s).snap = s.snap := rfl
@[simp] theorem record_fields (a : Access) (s : State) : (record a s).fields = s.fields := rfl
@[simp] theorem record_raws (a : Access) (s : State) : (record a s).raws = s.raws := rfl
@[simp] theorem record_log (a : Access) (s : State) : (record a s).log = s.log := rfl
@[simp] theorem record_exit (a : Access) (s : State) : (record a s).exit = s.exit := rfl
@[simp] theorem record_ec (a : Access) (s : State) : (record a s).ec = s.ec := rfl
@[simp] theorem record_trace (a : Access) (s : State) : (record a s).trace = s.trace ++ [a] := rfl
@[simp] theorem record_ret (a : Access) (s : State) : (record a s).ret = s.ret := rfl

/-! ### ecAdvance -/

@[simp] theorem ecAdvance_cfg (s : State) : (ecAdvance s).cfg = s.cfg := rfl
@[simp] theorem ecAdvance_invocation (s : State) : (ecAdvance s).invocation = s.invocation := rfl
@[simp] theorem ecAdvance_priv (s : State) : (ecAdvance s).priv = s.priv := rfl
@[simp] theorem ecAdvance_env (s : State) : (ecAdvance s).env = { s.env with moves := s.env.moves.tail, drawn := s.env.drawn + 1 } := rfl
@[simp] theorem ecAdvance_issue (s : State) : (ecAdvance s).issue = s.issue := rfl
@[simp] theorem ecAdvance_cmd (s : State) : (ecAdvance s).cmd = s.cmd := rfl
@[simp] theorem ecAdvance_top (s : State) : (ecAdvance s).top = s.top := rfl
@[simp] theorem ecAdvance_phase (s : State) : (ecAdvance s).phase = s.phase := rfl
@[simp] theorem ecAdvance_main (s : State) : (ecAdvance s).main = s.main := rfl
@[simp] theorem ecAdvance_g (s : State) : (ecAdvance s).g = s.g := rfl
@[simp] theorem ecAdvance_guard (s : State) : (ecAdvance s).guard = s.guard := rfl
@[simp] theorem ecAdvance_run (s : State) : (ecAdvance s).run = s.run := rfl
@[simp] theorem ecAdvance_acquired (s : State) : (ecAdvance s).acquired = s.acquired := rfl
@[simp] theorem ecAdvance_armed (s : State) : (ecAdvance s).armed = s.armed := rfl
@[simp] theorem ecAdvance_guardTaken (s : State) : (ecAdvance s).guardTaken = s.guardTaken := rfl
@[simp] theorem ecAdvance_csLive (s : State) : (ecAdvance s).csLive = s.csLive := rfl
@[simp] theorem ecAdvance_cs (s : State) : (ecAdvance s).cs = s.cs := rfl
@[simp] theorem ecAdvance_pending (s : State) : (ecAdvance s).pending = s.pending := rfl
@[simp] theorem ecAdvance_snap (s : State) : (ecAdvance s).snap = s.snap := rfl
@[simp] theorem ecAdvance_fields (s : State) : (ecAdvance s).fields = s.fields := rfl
@[simp] theorem ecAdvance_raws (s : State) : (ecAdvance s).raws = s.raws := rfl
@[simp] theorem ecAdvance_log (s : State) : (ecAdvance s).log = s.log := rfl
@[simp] theorem ecAdvance_exit (s : State) : (ecAdvance s).exit = s.exit := rfl
@[simp] theorem ecAdvance_ec (s : State) : (ecAdvance s).ec = Ec.turn s.cfg (headOr s.env.moves (Config.freeMoves s.env.drawn)) (Config.freeWrites s.env.drawn) s.ec := rfl
@[simp] theorem ecAdvance_trace (s : State) : (ecAdvance s).trace = s.trace := rfl
@[simp] theorem ecAdvance_ret (s : State) : (ecAdvance s).ret = s.ret := rfl

/-! ### drawByte -/

@[simp] theorem drawByte_cfg (s : State) : (drawByte s).2.cfg = s.cfg := rfl
@[simp] theorem drawByte_invocation (s : State) : (drawByte s).2.invocation = s.invocation := rfl
@[simp] theorem drawByte_priv (s : State) : (drawByte s).2.priv = s.priv := rfl
@[simp] theorem drawByte_env (s : State) : (drawByte s).2.env = { s.env with bytes := s.env.bytes.tail, drawn := s.env.drawn + 1 } := rfl
@[simp] theorem drawByte_issue (s : State) : (drawByte s).2.issue = s.issue := rfl
@[simp] theorem drawByte_cmd (s : State) : (drawByte s).2.cmd = s.cmd := rfl
@[simp] theorem drawByte_top (s : State) : (drawByte s).2.top = s.top := rfl
@[simp] theorem drawByte_phase (s : State) : (drawByte s).2.phase = s.phase := rfl
@[simp] theorem drawByte_main (s : State) : (drawByte s).2.main = s.main := rfl
@[simp] theorem drawByte_g (s : State) : (drawByte s).2.g = s.g := rfl
@[simp] theorem drawByte_guard (s : State) : (drawByte s).2.guard = s.guard := rfl
@[simp] theorem drawByte_run (s : State) : (drawByte s).2.run = s.run := rfl
@[simp] theorem drawByte_acquired (s : State) : (drawByte s).2.acquired = s.acquired := rfl
@[simp] theorem drawByte_armed (s : State) : (drawByte s).2.armed = s.armed := rfl
@[simp] theorem drawByte_guardTaken (s : State) : (drawByte s).2.guardTaken = s.guardTaken := rfl
@[simp] theorem drawByte_csLive (s : State) : (drawByte s).2.csLive = s.csLive := rfl
@[simp] theorem drawByte_cs (s : State) : (drawByte s).2.cs = s.cs := rfl
@[simp] theorem drawByte_pending (s : State) : (drawByte s).2.pending = s.pending := rfl
@[simp] theorem drawByte_snap (s : State) : (drawByte s).2.snap = s.snap := rfl
@[simp] theorem drawByte_fields (s : State) : (drawByte s).2.fields = s.fields := rfl
@[simp] theorem drawByte_raws (s : State) : (drawByte s).2.raws = s.raws := rfl
@[simp] theorem drawByte_log (s : State) : (drawByte s).2.log = s.log := rfl
@[simp] theorem drawByte_exit (s : State) : (drawByte s).2.exit = s.exit := rfl
@[simp] theorem drawByte_ec (s : State) : (drawByte s).2.ec = s.ec := rfl
@[simp] theorem drawByte_trace (s : State) : (drawByte s).2.trace = s.trace := rfl
@[simp] theorem drawByte_ret (s : State) : (drawByte s).2.ret = s.ret := rfl

/-! ### drawSnap -/

@[simp] theorem drawSnap_cfg (s : State) : (drawSnap s).2.cfg = s.cfg := rfl
@[simp] theorem drawSnap_invocation (s : State) : (drawSnap s).2.invocation = s.invocation := rfl
@[simp] theorem drawSnap_priv (s : State) : (drawSnap s).2.priv = s.priv := rfl
@[simp] theorem drawSnap_env (s : State) : (drawSnap s).2.env = { s.env with snaps := s.env.snaps.tail, drawn := s.env.drawn + 1 } := rfl
@[simp] theorem drawSnap_issue (s : State) : (drawSnap s).2.issue = s.issue := rfl
@[simp] theorem drawSnap_cmd (s : State) : (drawSnap s).2.cmd = s.cmd := rfl
@[simp] theorem drawSnap_top (s : State) : (drawSnap s).2.top = s.top := rfl
@[simp] theorem drawSnap_phase (s : State) : (drawSnap s).2.phase = s.phase := rfl
@[simp] theorem drawSnap_main (s : State) : (drawSnap s).2.main = s.main := rfl
@[simp] theorem drawSnap_g (s : State) : (drawSnap s).2.g = s.g := rfl
@[simp] theorem drawSnap_guard (s : State) : (drawSnap s).2.guard = s.guard := rfl
@[simp] theorem drawSnap_run (s : State) : (drawSnap s).2.run = s.run := rfl
@[simp] theorem drawSnap_acquired (s : State) : (drawSnap s).2.acquired = s.acquired := rfl
@[simp] theorem drawSnap_armed (s : State) : (drawSnap s).2.armed = s.armed := rfl
@[simp] theorem drawSnap_guardTaken (s : State) : (drawSnap s).2.guardTaken = s.guardTaken := rfl
@[simp] theorem drawSnap_csLive (s : State) : (drawSnap s).2.csLive = s.csLive := rfl
@[simp] theorem drawSnap_cs (s : State) : (drawSnap s).2.cs = s.cs := rfl
@[simp] theorem drawSnap_pending (s : State) : (drawSnap s).2.pending = s.pending := rfl
@[simp] theorem drawSnap_snap (s : State) : (drawSnap s).2.snap = s.snap := rfl
@[simp] theorem drawSnap_fields (s : State) : (drawSnap s).2.fields = s.fields := rfl
@[simp] theorem drawSnap_raws (s : State) : (drawSnap s).2.raws = s.raws := rfl
@[simp] theorem drawSnap_log (s : State) : (drawSnap s).2.log = s.log := rfl
@[simp] theorem drawSnap_exit (s : State) : (drawSnap s).2.exit = s.exit := rfl
@[simp] theorem drawSnap_ec (s : State) : (drawSnap s).2.ec = s.ec := rfl
@[simp] theorem drawSnap_trace (s : State) : (drawSnap s).2.trace = s.trace := rfl
@[simp] theorem drawSnap_ret (s : State) : (drawSnap s).2.ret = s.ret := rfl

/-! ### drawStamp -/

@[simp] theorem drawStamp_cfg (s : State) : (drawStamp s).2.cfg = s.cfg := rfl
@[simp] theorem drawStamp_invocation (s : State) : (drawStamp s).2.invocation = s.invocation := rfl
@[simp] theorem drawStamp_priv (s : State) : (drawStamp s).2.priv = s.priv := rfl
@[simp] theorem drawStamp_env (s : State) : (drawStamp s).2.env = { s.env with times := s.env.times.tail, drawn := s.env.drawn + 1 } := rfl
@[simp] theorem drawStamp_issue (s : State) : (drawStamp s).2.issue = s.issue := rfl
@[simp] theorem drawStamp_cmd (s : State) : (drawStamp s).2.cmd = s.cmd := rfl
@[simp] theorem drawStamp_top (s : State) : (drawStamp s).2.top = s.top := rfl
@[simp] theorem drawStamp_phase (s : State) : (drawStamp s).2.phase = s.phase := rfl
@[simp] theorem drawStamp_main (s : State) : (drawStamp s).2.main = s.main := rfl
@[simp] theorem drawStamp_g (s : State) : (drawStamp s).2.g = s.g := rfl
@[simp] theorem drawStamp_guard (s : State) : (drawStamp s).2.guard = s.guard := rfl
@[simp] theorem drawStamp_run (s : State) : (drawStamp s).2.run = s.run := rfl
@[simp] theorem drawStamp_acquired (s : State) : (drawStamp s).2.acquired = s.acquired := rfl
@[simp] theorem drawStamp_armed (s : State) : (drawStamp s).2.armed = s.armed := rfl
@[simp] theorem drawStamp_guardTaken (s : State) : (drawStamp s).2.guardTaken = s.guardTaken := rfl
@[simp] theorem drawStamp_csLive (s : State) : (drawStamp s).2.csLive = s.csLive := rfl
@[simp] theorem drawStamp_cs (s : State) : (drawStamp s).2.cs = s.cs := rfl
@[simp] theorem drawStamp_pending (s : State) : (drawStamp s).2.pending = s.pending := rfl
@[simp] theorem drawStamp_snap (s : State) : (drawStamp s).2.snap = s.snap := rfl
@[simp] theorem drawStamp_fields (s : State) : (drawStamp s).2.fields = s.fields := rfl
@[simp] theorem drawStamp_raws (s : State) : (drawStamp s).2.raws = s.raws := rfl
@[simp] theorem drawStamp_log (s : State) : (drawStamp s).2.log = s.log := rfl
@[simp] theorem drawStamp_exit (s : State) : (drawStamp s).2.exit = s.exit := rfl
@[simp] theorem drawStamp_ec (s : State) : (drawStamp s).2.ec = s.ec := rfl
@[simp] theorem drawStamp_trace (s : State) : (drawStamp s).2.trace = s.trace := rfl
@[simp] theorem drawStamp_ret (s : State) : (drawStamp s).2.ret = s.ret := rfl

/-! ### drawStop -/

@[simp] theorem drawStop_cfg (s : State) : (drawStop s).2.cfg = s.cfg := rfl
@[simp] theorem drawStop_invocation (s : State) : (drawStop s).2.invocation = s.invocation := rfl
@[simp] theorem drawStop_priv (s : State) : (drawStop s).2.priv = s.priv := rfl
@[simp] theorem drawStop_env (s : State) : (drawStop s).2.env = { s.env with stops := s.env.stops.tail, drawn := s.env.drawn + 1 } := rfl
@[simp] theorem drawStop_issue (s : State) : (drawStop s).2.issue = s.issue := rfl
@[simp] theorem drawStop_cmd (s : State) : (drawStop s).2.cmd = s.cmd := rfl
@[simp] theorem drawStop_top (s : State) : (drawStop s).2.top = s.top := rfl
@[simp] theorem drawStop_phase (s : State) : (drawStop s).2.phase = s.phase := rfl
@[simp] theorem drawStop_main (s : State) : (drawStop s).2.main = s.main := rfl
@[simp] theorem drawStop_g (s : State) : (drawStop s).2.g = s.g := rfl
@[simp] theorem drawStop_guard (s : State) : (drawStop s).2.guard = s.guard := rfl
@[simp] theorem drawStop_run (s : State) : (drawStop s).2.run = s.run := rfl
@[simp] theorem drawStop_acquired (s : State) : (drawStop s).2.acquired = s.acquired := rfl
@[simp] theorem drawStop_armed (s : State) : (drawStop s).2.armed = s.armed := rfl
@[simp] theorem drawStop_guardTaken (s : State) : (drawStop s).2.guardTaken = s.guardTaken := rfl
@[simp] theorem drawStop_csLive (s : State) : (drawStop s).2.csLive = s.csLive := rfl
@[simp] theorem drawStop_cs (s : State) : (drawStop s).2.cs = s.cs := rfl
@[simp] theorem drawStop_pending (s : State) : (drawStop s).2.pending = s.pending := rfl
@[simp] theorem drawStop_snap (s : State) : (drawStop s).2.snap = s.snap := rfl
@[simp] theorem drawStop_fields (s : State) : (drawStop s).2.fields = s.fields := rfl
@[simp] theorem drawStop_raws (s : State) : (drawStop s).2.raws = s.raws := rfl
@[simp] theorem drawStop_log (s : State) : (drawStop s).2.log = s.log := rfl
@[simp] theorem drawStop_exit (s : State) : (drawStop s).2.exit = s.exit := rfl
@[simp] theorem drawStop_ec (s : State) : (drawStop s).2.ec = s.ec := rfl
@[simp] theorem drawStop_trace (s : State) : (drawStop s).2.trace = s.trace := rfl
@[simp] theorem drawStop_ret (s : State) : (drawStop s).2.ret = s.ret := rfl

/-! ### writeExit -/

@[simp] theorem writeExit_cfg (code : Nat) (s : State) : (writeExit code s).cfg = s.cfg := rfl
@[simp] theorem writeExit_invocation (code : Nat) (s : State) : (writeExit code s).invocation = s.invocation := rfl
@[simp] theorem writeExit_priv (code : Nat) (s : State) : (writeExit code s).priv = s.priv := rfl
@[simp] theorem writeExit_env (code : Nat) (s : State) : (writeExit code s).env = s.env := rfl
@[simp] theorem writeExit_issue (code : Nat) (s : State) : (writeExit code s).issue = s.issue := rfl
@[simp] theorem writeExit_cmd (code : Nat) (s : State) : (writeExit code s).cmd = s.cmd := rfl
@[simp] theorem writeExit_top (code : Nat) (s : State) : (writeExit code s).top = .exit := rfl
@[simp] theorem writeExit_phase (code : Nat) (s : State) : (writeExit code s).phase = s.phase := rfl
@[simp] theorem writeExit_main (code : Nat) (s : State) : (writeExit code s).main = s.main := rfl
@[simp] theorem writeExit_g (code : Nat) (s : State) : (writeExit code s).g = s.g := rfl
@[simp] theorem writeExit_guard (code : Nat) (s : State) : (writeExit code s).guard = s.guard := rfl
@[simp] theorem writeExit_run (code : Nat) (s : State) : (writeExit code s).run = s.run := rfl
@[simp] theorem writeExit_acquired (code : Nat) (s : State) : (writeExit code s).acquired = s.acquired := rfl
@[simp] theorem writeExit_armed (code : Nat) (s : State) : (writeExit code s).armed = s.armed := rfl
@[simp] theorem writeExit_guardTaken (code : Nat) (s : State) : (writeExit code s).guardTaken = s.guardTaken := rfl
@[simp] theorem writeExit_csLive (code : Nat) (s : State) : (writeExit code s).csLive = false := rfl
@[simp] theorem writeExit_cs (code : Nat) (s : State) : (writeExit code s).cs = s.cs := rfl
@[simp] theorem writeExit_pending (code : Nat) (s : State) : (writeExit code s).pending = s.pending := rfl
@[simp] theorem writeExit_snap (code : Nat) (s : State) : (writeExit code s).snap = s.snap := rfl
@[simp] theorem writeExit_fields (code : Nat) (s : State) : (writeExit code s).fields = s.fields := rfl
@[simp] theorem writeExit_raws (code : Nat) (s : State) : (writeExit code s).raws = s.raws := rfl
@[simp] theorem writeExit_log (code : Nat) (s : State) : (writeExit code s).log = s.log := rfl
@[simp] theorem writeExit_exit (code : Nat) (s : State) : (writeExit code s).exit = some code := rfl
@[simp] theorem writeExit_ec (code : Nat) (s : State) : (writeExit code s).ec = s.ec := rfl
@[simp] theorem writeExit_trace (code : Nat) (s : State) : (writeExit code s).trace = s.trace := rfl
@[simp] theorem writeExit_ret (code : Nat) (s : State) : (writeExit code s).ret = s.ret := rfl

/-! ### enterGuard -/

@[simp] theorem enterGuard_cfg (s : State) : (enterGuard s).cfg = s.cfg := rfl
@[simp] theorem enterGuard_invocation (s : State) : (enterGuard s).invocation = s.invocation := rfl
@[simp] theorem enterGuard_priv (s : State) : (enterGuard s).priv = s.priv := rfl
@[simp] theorem enterGuard_env (s : State) : (enterGuard s).env = s.env := rfl
@[simp] theorem enterGuard_issue (s : State) : (enterGuard s).issue = s.issue := rfl
@[simp] theorem enterGuard_cmd (s : State) : (enterGuard s).cmd = s.cmd := rfl
@[simp] theorem enterGuard_top (s : State) : (enterGuard s).top = s.top := rfl
@[simp] theorem enterGuard_phase (s : State) : (enterGuard s).phase = s.phase := rfl
@[simp] theorem enterGuard_main (s : State) : (enterGuard s).main = s.main := rfl
@[simp] theorem enterGuard_g (s : State) : (enterGuard s).g = .active .clear := rfl
@[simp] theorem enterGuard_guard (s : State) : (enterGuard s).guard = s.guard := rfl
@[simp] theorem enterGuard_run (s : State) : (enterGuard s).run = s.run := rfl
@[simp] theorem enterGuard_acquired (s : State) : (enterGuard s).acquired = s.acquired := rfl
@[simp] theorem enterGuard_armed (s : State) : (enterGuard s).armed = s.armed := rfl
@[simp] theorem enterGuard_guardTaken (s : State) : (enterGuard s).guardTaken = true := rfl
@[simp] theorem enterGuard_csLive (s : State) : (enterGuard s).csLive = s.csLive := rfl
@[simp] theorem enterGuard_cs (s : State) : (enterGuard s).cs = s.cs := rfl
@[simp] theorem enterGuard_pending (s : State) : (enterGuard s).pending = s.pending := rfl
@[simp] theorem enterGuard_snap (s : State) : (enterGuard s).snap = s.snap := rfl
@[simp] theorem enterGuard_fields (s : State) : (enterGuard s).fields = s.fields := rfl
@[simp] theorem enterGuard_raws (s : State) : (enterGuard s).raws = s.raws := rfl
@[simp] theorem enterGuard_log (s : State) : (enterGuard s).log = s.log := rfl
@[simp] theorem enterGuard_exit (s : State) : (enterGuard s).exit = s.exit := rfl
@[simp] theorem enterGuard_ec (s : State) : (enterGuard s).ec = s.ec := rfl
@[simp] theorem enterGuard_trace (s : State) : (enterGuard s).trace = s.trace := rfl
@[simp] theorem enterGuard_ret (s : State) : (enterGuard s).ret = s.ret := rfl

/-! ### leaveGuard -/

@[simp] theorem leaveGuard_cfg (s : State) : (leaveGuard s).cfg = s.cfg := rfl
@[simp] theorem leaveGuard_invocation (s : State) : (leaveGuard s).invocation = s.invocation := rfl
@[simp] theorem leaveGuard_priv (s : State) : (leaveGuard s).priv = s.priv := rfl
@[simp] theorem leaveGuard_env (s : State) : (leaveGuard s).env = s.env := rfl
@[simp] theorem leaveGuard_issue (s : State) : (leaveGuard s).issue = s.issue := rfl
@[simp] theorem leaveGuard_cmd (s : State) : (leaveGuard s).cmd = s.cmd := rfl
@[simp] theorem leaveGuard_top (s : State) : (leaveGuard s).top = s.top := rfl
@[simp] theorem leaveGuard_phase (s : State) : (leaveGuard s).phase = s.phase := rfl
@[simp] theorem leaveGuard_main (s : State) : (leaveGuard s).main = s.main := rfl
@[simp] theorem leaveGuard_g (s : State) : (leaveGuard s).g = .done := rfl
@[simp] theorem leaveGuard_guard (s : State) : (leaveGuard s).guard = s.guard := rfl
@[simp] theorem leaveGuard_run (s : State) : (leaveGuard s).run = s.run := rfl
@[simp] theorem leaveGuard_acquired (s : State) : (leaveGuard s).acquired = s.acquired := rfl
@[simp] theorem leaveGuard_armed (s : State) : (leaveGuard s).armed = s.armed := rfl
@[simp] theorem leaveGuard_guardTaken (s : State) : (leaveGuard s).guardTaken = s.guardTaken := rfl
@[simp] theorem leaveGuard_csLive (s : State) : (leaveGuard s).csLive = s.csLive := rfl
@[simp] theorem leaveGuard_cs (s : State) : (leaveGuard s).cs = s.cs := rfl
@[simp] theorem leaveGuard_pending (s : State) : (leaveGuard s).pending = s.pending := rfl
@[simp] theorem leaveGuard_snap (s : State) : (leaveGuard s).snap = s.snap := rfl
@[simp] theorem leaveGuard_fields (s : State) : (leaveGuard s).fields = s.fields := rfl
@[simp] theorem leaveGuard_raws (s : State) : (leaveGuard s).raws = s.raws := rfl
@[simp] theorem leaveGuard_log (s : State) : (leaveGuard s).log = s.log := rfl
@[simp] theorem leaveGuard_exit (s : State) : (leaveGuard s).exit = s.exit := rfl
@[simp] theorem leaveGuard_ec (s : State) : (leaveGuard s).ec = s.ec := rfl
@[simp] theorem leaveGuard_trace (s : State) : (leaveGuard s).trace = s.trace := rfl
@[simp] theorem leaveGuard_ret (s : State) : (leaveGuard s).ret = s.ret := rfl

/-! ### clearRunStep -/

@[simp] theorem clearRunStep_cfg (s : State) : (clearRunStep s).cfg = s.cfg := rfl
@[simp] theorem clearRunStep_invocation (s : State) : (clearRunStep s).invocation = s.invocation := rfl
@[simp] theorem clearRunStep_priv (s : State) : (clearRunStep s).priv = s.priv := rfl
@[simp] theorem clearRunStep_env (s : State) : (clearRunStep s).env = s.env := rfl
@[simp] theorem clearRunStep_issue (s : State) : (clearRunStep s).issue = s.issue := rfl
@[simp] theorem clearRunStep_cmd (s : State) : (clearRunStep s).cmd = s.cmd := rfl
@[simp] theorem clearRunStep_top (s : State) : (clearRunStep s).top = s.top := rfl
@[simp] theorem clearRunStep_phase (s : State) : (clearRunStep s).phase = s.phase := rfl
@[simp] theorem clearRunStep_main (s : State) : (clearRunStep s).main = s.main := rfl
@[simp] theorem clearRunStep_g (s : State) : (clearRunStep s).g = .active .write := rfl
@[simp] theorem clearRunStep_guard (s : State) : (clearRunStep s).guard = s.guard := rfl
@[simp] theorem clearRunStep_run (s : State) : (clearRunStep s).run = false := rfl
@[simp] theorem clearRunStep_acquired (s : State) : (clearRunStep s).acquired = s.acquired := rfl
@[simp] theorem clearRunStep_armed (s : State) : (clearRunStep s).armed = s.armed := rfl
@[simp] theorem clearRunStep_guardTaken (s : State) : (clearRunStep s).guardTaken = s.guardTaken := rfl
@[simp] theorem clearRunStep_csLive (s : State) : (clearRunStep s).csLive = s.csLive := rfl
@[simp] theorem clearRunStep_cs (s : State) : (clearRunStep s).cs = s.cs := rfl
@[simp] theorem clearRunStep_pending (s : State) : (clearRunStep s).pending = s.pending := rfl
@[simp] theorem clearRunStep_snap (s : State) : (clearRunStep s).snap = s.snap := rfl
@[simp] theorem clearRunStep_fields (s : State) : (clearRunStep s).fields = s.fields := rfl
@[simp] theorem clearRunStep_raws (s : State) : (clearRunStep s).raws = s.raws := rfl
@[simp] theorem clearRunStep_log (s : State) : (clearRunStep s).log = s.log := rfl
@[simp] theorem clearRunStep_exit (s : State) : (clearRunStep s).exit = s.exit := rfl
@[simp] theorem clearRunStep_ec (s : State) : (clearRunStep s).ec = s.ec := rfl
@[simp] theorem clearRunStep_trace (s : State) : (clearRunStep s).trace = s.trace := rfl
@[simp] theorem clearRunStep_ret (s : State) : (clearRunStep s).ret = s.ret := rfl

/-! ### clearIssue -/

@[simp] theorem clearIssue_cfg (s : State) : (clearIssue s).cfg = s.cfg := rfl
@[simp] theorem clearIssue_invocation (s : State) : (clearIssue s).invocation = s.invocation := rfl
@[simp] theorem clearIssue_priv (s : State) : (clearIssue s).priv = s.priv := rfl
@[simp] theorem clearIssue_env (s : State) : (clearIssue s).env = s.env := rfl
@[simp] theorem clearIssue_issue (s : State) : (clearIssue s).issue = none := rfl
@[simp] theorem clearIssue_cmd (s : State) : (clearIssue s).cmd = s.cmd := rfl
@[simp] theorem clearIssue_top (s : State) : (clearIssue s).top = s.top := rfl
@[simp] theorem clearIssue_phase (s : State) : (clearIssue s).phase = s.phase := rfl
@[simp] theorem clearIssue_main (s : State) : (clearIssue s).main = s.main := rfl
@[simp] theorem clearIssue_g (s : State) : (clearIssue s).g = s.g := rfl
@[simp] theorem clearIssue_guard (s : State) : (clearIssue s).guard = s.guard := rfl
@[simp] theorem clearIssue_run (s : State) : (clearIssue s).run = s.run := rfl
@[simp] theorem clearIssue_acquired (s : State) : (clearIssue s).acquired = s.acquired := rfl
@[simp] theorem clearIssue_armed (s : State) : (clearIssue s).armed = s.armed := rfl
@[simp] theorem clearIssue_guardTaken (s : State) : (clearIssue s).guardTaken = s.guardTaken := rfl
@[simp] theorem clearIssue_csLive (s : State) : (clearIssue s).csLive = s.csLive := rfl
@[simp] theorem clearIssue_cs (s : State) : (clearIssue s).cs = s.cs := rfl
@[simp] theorem clearIssue_pending (s : State) : (clearIssue s).pending = s.pending := rfl
@[simp] theorem clearIssue_snap (s : State) : (clearIssue s).snap = s.snap := rfl
@[simp] theorem clearIssue_fields (s : State) : (clearIssue s).fields = s.fields := rfl
@[simp] theorem clearIssue_raws (s : State) : (clearIssue s).raws = s.raws := rfl
@[simp] theorem clearIssue_log (s : State) : (clearIssue s).log = s.log := rfl
@[simp] theorem clearIssue_exit (s : State) : (clearIssue s).exit = s.exit := rfl
@[simp] theorem clearIssue_ec (s : State) : (clearIssue s).ec = s.ec := rfl
@[simp] theorem clearIssue_trace (s : State) : (clearIssue s).trace = s.trace := rfl
@[simp] theorem clearIssue_ret (s : State) : (clearIssue s).ret = s.ret := rfl

/-! ### giveUp -/

@[simp] theorem giveUp_cfg (m : Bool) (s : State) : (giveUp m s).cfg = s.cfg := by cases m <;> rfl
@[simp] theorem giveUp_invocation (m : Bool) (s : State) : (giveUp m s).invocation = s.invocation := by cases m <;> rfl
@[simp] theorem giveUp_priv (m : Bool) (s : State) : (giveUp m s).priv = s.priv := by cases m <;> rfl
@[simp] theorem giveUp_env (m : Bool) (s : State) : (giveUp m s).env = s.env := by cases m <;> rfl
@[simp] theorem giveUp_issue (m : Bool) (s : State) : (giveUp m s).issue = s.issue := by cases m <;> rfl
@[simp] theorem giveUp_cmd (m : Bool) (s : State) : (giveUp m s).cmd = s.cmd := by cases m <;> rfl
@[simp] theorem giveUp_top (m : Bool) (s : State) : (giveUp m s).top = s.top := by cases m <;> rfl
@[simp] theorem giveUp_phase (m : Bool) (s : State) : (giveUp m s).phase = s.phase := by cases m <;> rfl
@[simp] theorem giveUp_main (m : Bool) (s : State) : (giveUp m s).main = s.main := by cases m <;> rfl
@[simp] theorem giveUp_g (m : Bool) (s : State) : (giveUp m s).g = s.g := by cases m <;> rfl
@[simp] theorem giveUp_guard (m : Bool) (s : State) : (giveUp m s).guard = s.guard := by cases m <;> rfl
@[simp] theorem giveUp_run (m : Bool) (s : State) : (giveUp m s).run = s.run := by cases m <;> rfl
@[simp] theorem giveUp_acquired (m : Bool) (s : State) : (giveUp m s).acquired = s.acquired := by cases m <;> rfl
@[simp] theorem giveUp_armed (m : Bool) (s : State) : (giveUp m s).armed = s.armed := by cases m <;> rfl
@[simp] theorem giveUp_guardTaken (m : Bool) (s : State) : (giveUp m s).guardTaken = s.guardTaken := by cases m <;> rfl
@[simp] theorem giveUp_csLive (m : Bool) (s : State) : (giveUp m s).csLive = s.csLive := by cases m <;> rfl
@[simp] theorem giveUp_cs (m : Bool) (s : State) : (giveUp m s).cs = s.cs := by cases m <;> rfl
@[simp] theorem giveUp_pending (m : Bool) (s : State) : (giveUp m s).pending = s.pending := by cases m <;> rfl
@[simp] theorem giveUp_snap (m : Bool) (s : State) : (giveUp m s).snap = s.snap := by cases m <;> rfl
@[simp] theorem giveUp_fields (m : Bool) (s : State) : (giveUp m s).fields = s.fields := by cases m <;> rfl
@[simp] theorem giveUp_raws (m : Bool) (s : State) : (giveUp m s).raws = s.raws := by cases m <;> rfl
@[simp] theorem giveUp_log (m : Bool) (s : State) : (giveUp m s).log = s.log := by cases m <;> rfl
@[simp] theorem giveUp_exit (m : Bool) (s : State) : (giveUp m s).exit = s.exit := by cases m <;> rfl
@[simp] theorem giveUp_trace (m : Bool) (s : State) : (giveUp m s).trace = s.trace := by cases m <;> rfl
@[simp] theorem giveUp_ret (m : Bool) (s : State) : (giveUp m s).ret = s.ret := by cases m <;> rfl

/-! ### setLatches -/

@[simp] theorem setLatches_cfg (ctx : Ctx) (l : Latches) (s : State) : (setLatches ctx l s).cfg = s.cfg := by cases ctx <;> rfl
@[simp] theorem setLatches_invocation (ctx : Ctx) (l : Latches) (s : State) : (setLatches ctx l s).invocation = s.invocation := by cases ctx <;> rfl
@[simp] theorem setLatches_priv (ctx : Ctx) (l : Latches) (s : State) : (setLatches ctx l s).priv = s.priv := by cases ctx <;> rfl
@[simp] theorem setLatches_env (ctx : Ctx) (l : Latches) (s : State) : (setLatches ctx l s).env = s.env := by cases ctx <;> rfl
@[simp] theorem setLatches_issue (ctx : Ctx) (l : Latches) (s : State) : (setLatches ctx l s).issue = s.issue := by cases ctx <;> rfl
@[simp] theorem setLatches_cmd (ctx : Ctx) (l : Latches) (s : State) : (setLatches ctx l s).cmd = s.cmd := by cases ctx <;> rfl
@[simp] theorem setLatches_top (ctx : Ctx) (l : Latches) (s : State) : (setLatches ctx l s).top = s.top := by cases ctx <;> rfl
@[simp] theorem setLatches_phase (ctx : Ctx) (l : Latches) (s : State) : (setLatches ctx l s).phase = s.phase := by cases ctx <;> rfl
@[simp] theorem setLatches_g (ctx : Ctx) (l : Latches) (s : State) : (setLatches ctx l s).g = s.g := by cases ctx <;> rfl
@[simp] theorem setLatches_run (ctx : Ctx) (l : Latches) (s : State) : (setLatches ctx l s).run = s.run := by cases ctx <;> rfl
@[simp] theorem setLatches_acquired (ctx : Ctx) (l : Latches) (s : State) : (setLatches ctx l s).acquired = s.acquired := by cases ctx <;> rfl
@[simp] theorem setLatches_armed (ctx : Ctx) (l : Latches) (s : State) : (setLatches ctx l s).armed = s.armed := by cases ctx <;> rfl
@[simp] theorem setLatches_guardTaken (ctx : Ctx) (l : Latches) (s : State) : (setLatches ctx l s).guardTaken = s.guardTaken := by cases ctx <;> rfl
@[simp] theorem setLatches_csLive (ctx : Ctx) (l : Latches) (s : State) : (setLatches ctx l s).csLive = s.csLive := by cases ctx <;> rfl
@[simp] theorem setLatches_cs (ctx : Ctx) (l : Latches) (s : State) : (setLatches ctx l s).cs = s.cs := by cases ctx <;> rfl
@[simp] theorem setLatches_pending (ctx : Ctx) (l : Latches) (s : State) : (setLatches ctx l s).pending = s.pending := by cases ctx <;> rfl
@[simp] theorem setLatches_snap (ctx : Ctx) (l : Latches) (s : State) : (setLatches ctx l s).snap = s.snap := by cases ctx <;> rfl
@[simp] theorem setLatches_fields (ctx : Ctx) (l : Latches) (s : State) : (setLatches ctx l s).fields = s.fields := by cases ctx <;> rfl
@[simp] theorem setLatches_raws (ctx : Ctx) (l : Latches) (s : State) : (setLatches ctx l s).raws = s.raws := by cases ctx <;> rfl
@[simp] theorem setLatches_log (ctx : Ctx) (l : Latches) (s : State) : (setLatches ctx l s).log = s.log := by cases ctx <;> rfl
@[simp] theorem setLatches_exit (ctx : Ctx) (l : Latches) (s : State) : (setLatches ctx l s).exit = s.exit := by cases ctx <;> rfl
@[simp] theorem setLatches_ec (ctx : Ctx) (l : Latches) (s : State) : (setLatches ctx l s).ec = s.ec := by cases ctx <;> rfl
@[simp] theorem setLatches_trace (ctx : Ctx) (l : Latches) (s : State) : (setLatches ctx l s).trace = s.trace := by cases ctx <;> rfl
@[simp] theorem setLatches_ret (ctx : Ctx) (l : Latches) (s : State) : (setLatches ctx l s).ret = s.ret := by cases ctx <;> rfl

@[simp] theorem latches_setLatches (ctx : Ctx) (l : Latches) (s : State) :
    latches ctx (setLatches ctx l s) = l := by cases ctx <;> rfl
@[simp] theorem setLatches_latches (ctx : Ctx) (s : State) : setLatches ctx (latches ctx s) s = s := by
  cases ctx <;> rfl
@[simp] theorem setLatches_setLatches (ctx : Ctx) (l l' : Latches) (s : State) :
    setLatches ctx l (setLatches ctx l' s) = setLatches ctx l s := by cases ctx <;> rfl
@[simp] theorem setLatches_main_guard (l : Latches) (s : State) : (setLatches .main l s).guard = s.guard := rfl
@[simp] theorem setLatches_guard_main (l : Latches) (s : State) : (setLatches .guard l s).main = s.main := rfl
@[simp] theorem setLatches_main_main (l : Latches) (s : State) : (setLatches .main l s).main = l := rfl
@[simp] theorem setLatches_guard_guard (l : Latches) (s : State) : (setLatches .guard l s).guard = l := rfl
@[simp] theorem latches_main (s : State) : latches .main s = s.main := rfl
@[simp] theorem latches_guard (s : State) : latches .guard s = s.guard := rfl

/-! ### andThen, orReturn, perform -/

@[simp] theorem andThen_next {α β : Type} (a : α) (s : State) (f : α → State → Res β) :
    andThen (.next (a, s)) f = f a s := rfl
@[simp] theorem andThen_fault {α β : Type} (e : Fault) (f : α → State → Res β) :
    andThen (.fault e) f = .fault e := rfl
@[simp] theorem andThen_refused {α β : Type} (e : Refusal) (f : α → State → Res β) :
    andThen (.refused e) f = .refused e := rfl
@[simp] theorem withTurn_next {α : Type} (a : α) (s : State) :
    withTurn (.next (a, s)) = .next (a, ecAdvance s) := rfl
@[simp] theorem withTurn_fault {α : Type} (e : Fault) : withTurn (α := α) (.fault e) = .fault e := rfl
@[simp] theorem orReturn_ok {α β ε : Type} (a : α) (s : State) (f : α → State → Res (Except ε β)) :
    orReturn (.next (.ok a, s)) f = f a s := rfl
@[simp] theorem orReturn_error {α β ε : Type} (e : ε) (s : State) (f : α → State → Res (Except ε β)) :
    orReturn (.next (.error e, s)) f = .next (.error e, s) := rfl

/-- Inversion of `andThen`: a next answer comes from a next answer of the first part. -/
theorem andThen_eq_next {α β : Type} {r : Res α} {f : α → State → Res β} {b : β} {t : State}
    (h : andThen r f = .next (b, t)) : ∃ a s, r = .next (a, s) ∧ f a s = .next (b, t) := by
  match r, h with
  | .next (a, s), h => exact ⟨a, s, rfl, h⟩

/-- Inversion of `withTurn`: the step, and the EC's own steps after it. -/
theorem withTurn_eq_next {α : Type} {r : Res α} {a : α} {t : State} (h : withTurn r = .next (a, t)) :
    ∃ u, r = .next (a, u) ∧ t = ecAdvance u := by
  obtain ⟨b, u, hu, hbt⟩ := andThen_eq_next h
  injection hbt with hbt
  injection hbt with hb ht
  exact ⟨u, by rw [hu, hb], ht.symm⟩

/-- Inversion of `perform`: a next answer is the operation's, with its result kept. -/
theorem perform_eq_next {f : State → Res Ret} {s t : State} (h : perform f s = .next t) :
    s.top ≠ .exit ∧ ∃ r u, f s = .next (r, u) ∧ t = { u with ret := r } := by
  unfold perform at h
  split at h
  · cases h
  · refine ⟨by assumption, ?_⟩
    split at h
    · exact ⟨_, _, by assumption, by injection h with h; exact h.symm⟩
    · cases h
    · cases h

/-- Before `EXIT`, `perform` is the operation, with its result kept. -/
theorem perform_next {f : State → Res Ret} {s u : State} {r : Ret} (hs : s.top ≠ .exit)
    (h : f s = .next (r, u)) : perform f s = .next { u with ret := r } := by
  unfold perform
  split
  · contradiction
  · simp [h]

end Sys2Proof.Machine
end

