-- ==== Sys2Proof/Laws/Port.lean ====
section
/-! SUPPORT. What a port access, a bulk read and a status poll can do, said once each. -/

namespace Sys2Proof.Machine

/-! ## Flags (R73, R78 (a)) -/

theorem flagValue_eq_getLsbD (c : Config) (f : Flag) (b : Byte) :
    flagValue c f b = b.getLsbD (flagBit c f).val := by
  have h : ∀ (i : Fin 8) (b : Byte), ((b >>> i.val) &&& 1#8 == 1#8) = b.getLsbD i.val := by decide +revert
  exact h _ _

theorem getLsbD_withBit (b : Byte) (i j : Fin 8) (v : Bool) :
    (withBit b i v).getLsbD j.val = if j = i then v else b.getLsbD j.val := by
  have hj := j.isLt
  by_cases h : j = i
  · subst h
    cases v <;> simp [withBit]
  · have h' : j.val ≠ i.val := fun e => h (Fin.ext e)
    cases v <;> simp [withBit, h] <;> omega

/-- A configuration that meets P-CFG has two distinct flag bits. -/
theorem flagBits_ne {c : Config} (h : c.ok = true) : c.board.ibfBit ≠ c.board.obfBit := by
  simp only [Config.ok, Config.boardOk, Bool.and_eq_true, bne_iff_ne] at h
  exact h.1.2

/-- IBF of the status byte of an EC that is not corrupt. -/
theorem flagValue_statusByte_ibf {c : Config} {e : Ec} (free : Byte) (hc : c.ok = true)
    (he : e.corrupt = false) : flagValue c .ibf (statusByte c e free) = e.ibf := by
  simp only [flagValue_eq_getLsbD, statusByte, he, Bool.false_eq_true, if_false, getLsbD_withBit, flagBit,
    flagBits_ne hc, if_true]

/-- OBF of the status byte of an EC that is not corrupt. -/
theorem flagValue_statusByte_obf {c : Config} {e : Ec} (free : Byte)
    (he : e.corrupt = false) : flagValue c .obf (statusByte c e free) = e.obf := by
  simp only [flagValue_eq_getLsbD, statusByte, he, Bool.false_eq_true, if_false, getLsbD_withBit, flagBit,
    if_true]

/-! ## Frames -/

theorem PortFrame.refl (s : State) : PortFrame s s := rfl

theorem PortFrame.trans {s t u : State} (h : PortFrame s t) (h' : PortFrame t u) : PortFrame s u := by
  unfold PortFrame at *
  rw [h'] ; rw [h]

theorem EngineFrame.refl (ctx : Ctx) (s : State) : EngineFrame ctx s s := by
  cases ctx <;> rfl

theorem EngineFrame.trans {ctx : Ctx} {s t u : State} (h : EngineFrame ctx s t)
    (h' : EngineFrame ctx t u) : EngineFrame ctx s u := by
  unfold EngineFrame at *
  rw [h', h]
  cases ctx <;> rfl

theorem PortFrame.engine {s t : State} (ctx : Ctx) (h : PortFrame s t) : EngineFrame ctx s t := by
  unfold PortFrame at h
  unfold EngineFrame
  rw [h]
  cases ctx <;> rfl

theorem setLatches_engine (ctx : Ctx) (l : Latches) (s : State) : EngineFrame ctx s (setLatches ctx l s) := by
  cases ctx <;> rfl

theorem emit_engine (ctx : Ctx) (e : Event) (s : State) : EngineFrame ctx s (emit e s) := by
  cases ctx <;> rfl

theorem giveUp_engine (ctx : Ctx) (m : Bool) (s : State) : EngineFrame ctx s (giveUp m s) := by
  cases m <;> cases ctx <;> rfl

/-- What an engine frame keeps, field by field. -/
theorem EngineFrame.kept {ctx : Ctx} {s t : State} (h : EngineFrame ctx s t) :
    t.cfg = s.cfg ∧ t.acquired = s.acquired ∧ t.top = s.top ∧ t.exit = s.exit ∧ t.run = s.run ∧
    t.armed = s.armed ∧ t.guardTaken = s.guardTaken ∧ t.g = s.g ∧ t.phase = s.phase ∧ t.cs = s.cs := by
  unfold EngineFrame at h
  rw [h]
  cases ctx <;> simp

/-! ## The EC's own steps at a boundary -/

/-- They change the EC and the inputs used up only. -/
theorem ecAdvance_frame (s : State) : PortFrame s (ecAdvance s) := rfl

theorem ecAdvance_wf (s : State) (h : s.ec.regs.wf = true) : (ecAdvance s).ec.regs.wf = true :=
  Ec.turn_wf _ _ _ _ h

theorem ecAdvance_reference (s : State) : (ecAdvance s).ec.reference = s.ec.reference :=
  Ec.turn_reference _ _ _ _

theorem ecAdvance_corrupt (s : State) (h : s.ec.corrupt = true) : (ecAdvance s).ec.corrupt = true :=
  Ec.turn_corrupt _ _ _ _ h

@[simp] theorem ecAdvance_latches (ctx : Ctx) (s : State) : latches ctx (ecAdvance s) = latches ctx s := by
  cases ctx <;> rfl

@[simp] theorem giveUp_latches (ctx : Ctx) (m : Bool) (s : State) : latches ctx (giveUp m s) = latches ctx s := by
  cases m <;> cases ctx <;> rfl

/-- The EC's steps and the latches do not touch each other. -/
theorem ecAdvance_setLatches (ctx : Ctx) (l : Latches) (s : State) :
    ecAdvance (setLatches ctx l s) = setLatches ctx l (ecAdvance s) := by
  cases ctx <;> rfl

/-! ## Port accesses -/

/-- Before `ACQUIRE` a port access is a fault (R104). -/
theorem readPort_fault (p : Port) (b : Bool) (s : State) (h : s.acquired = false) :
    readPort p b s = .fault .notAcquired := by
  simp [readPort, h]

theorem portIn_fault (p : Port) (s : State) (h : s.acquired = false) : portIn p s = .fault .notAcquired :=
  readPort_fault p true s h

theorem portOut_fault (p : Port) (v : Byte) (s : State) (h : s.acquired = false) :
    portOut p v s = .fault .notAcquired := by
  simp [portOut, h]

/-- A status read after `ACQUIRE`. -/
theorem portIn_sc (s : State) (h : s.acquired = true) :
    portIn .sc s =
      .next (statusByte s.cfg s.ec (drawByte s).1,
        record (.input .sc (statusByte s.cfg s.ec (drawByte s).1)) (drawByte s).2) := by
  unfold portIn readPort
  rw [if_pos h]

/-- A data read of a full output buffer. -/
theorem portIn_data_full (s : State) (h : s.acquired = true) (hf : s.ec.obf = true)
    (hc : s.ec.corrupt = false) :
    portIn .data s =
      .next (s.ec.outb, record (.input .data s.ec.outb) { s with ec := { s.ec with obf := false } }) := by
  unfold portIn readPort
  rw [if_pos h]
  simp only [hf, hc, Bool.not_false, Bool.and_self, if_true]

/-- A data read with no output byte, or of a corrupt EC. -/
theorem portIn_data_free (s : State) (h : s.acquired = true) (hf : s.ec.obf = false ∨ s.ec.corrupt = true) :
    portIn .data s =
      .next ((drawByte s).1, record (.input .data (drawByte s).1) (drawByte s).2) := by
  have hn : (s.ec.obf && !s.ec.corrupt) = false := by rcases hf with hf | hf <;> simp [hf]
  unfold portIn readPort
  rw [if_pos h]
  simp only [hn, Bool.false_and, Bool.false_eq_true, if_false]

/-- A data read after an OBF wait that timed out: the byte is a draw whatever the EC holds, and an output
byte that has come meanwhile is lost (R118 (b), R51). -/
theorem readPort_unsettled (s : State) (h : s.acquired = true) :
    ∃ t, readPort .data false s =
        .next ((drawByte s).1, record (.input .data (drawByte s).1) (drawByte t).2) ∧
      (t = s ∨ t = { s with ec := { s.ec with obf := false } }) := by
  unfold readPort
  rw [if_pos h]
  simp only [Bool.and_false, Bool.false_eq_true, if_false]
  split
  · exact ⟨_, rfl, .inr rfl⟩
  · exact ⟨_, rfl, .inl rfl⟩

/-- A port write after `ACQUIRE`, with its state. -/
theorem portOut_eq (p : Port) (v : Byte) (s : State) (h : s.acquired = true) :
    portOut p v s = .next ((), record (.output p v) { s with ec := Ec.receive p v s.ec }) := by
  unfold portOut
  rw [if_pos h]

/-- A port read after `ACQUIRE`: one byte, recorded; nothing else of ECHC changes. -/
theorem readPort_next (p : Port) (settled : Bool) (s : State) (h : s.acquired = true) :
    ∃ b t, readPort p settled s = .next (b, t) ∧ PortFrame s t ∧ t.trace = s.trace ++ [.input p b] := by
  unfold readPort
  rw [if_pos h]
  cases p with
  | sc => exact ⟨_, _, rfl, rfl, rfl⟩
  | data =>
    dsimp only
    repeat' split
    all_goals exact ⟨_, _, rfl, rfl, rfl⟩

theorem portIn_next (p : Port) (s : State) (h : s.acquired = true) :
    ∃ b t, portIn p s = .next (b, t) ∧ PortFrame s t ∧ t.trace = s.trace ++ [.input p b] :=
  readPort_next p true s h

/-- A port write after `ACQUIRE`. -/
theorem portOut_next (p : Port) (v : Byte) (s : State) (h : s.acquired = true) :
    ∃ t, portOut p v s = .next ((), t) ∧ PortFrame s t ∧ t.trace = s.trace ++ [.output p v] := by
  unfold portOut
  rw [if_pos h]
  exact ⟨_, rfl, rfl, rfl⟩

/-- A send: a port write, with the EC's own steps after it. -/
theorem send_next (p : Port) (v : Byte) (s : State) (h : s.acquired = true) :
    ∃ t, send p v s = .next ((), t) ∧ PortFrame s t ∧ t.trace = s.trace ++ [.output p v] := by
  obtain ⟨t, ht, hf, htr⟩ := portOut_next p v s h
  unfold send
  rw [ht]
  exact ⟨_, rfl, hf.trans (ecAdvance_frame t), htr⟩

/-- What a bulk read changes: the inputs used up, and `SNAP`. -/
theorem snapRead_frame (s : State) :
    (snapRead s).2 = { s with env := (snapRead s).2.env, snap := (snapRead s).2.snap } := by
  unfold snapRead
  dsimp only
  split
  · rfl
  · rfl
  · split <;> rfl

/-! ## One status poll (R110, R112) -/

/-- What one poll can do: its byte is recorded; a hit shows the expected value, anything else the
other one and is counted; the last allowed one is a timeout, and leaves an EC of the contract corrupt where
it abandons a transaction (R50). -/
theorem pollOnce_next (ctx : Ctx) (f : Flag) (e m : Bool) (s : State) (h : s.acquired = true) :
    ∃ r b t, pollOnce ctx f e m s = .next (r, t) ∧ EngineFrame ctx s t ∧ t.log = s.log ∧
      t.trace = s.trace ++ [.input .sc b] ∧ t.ec.reference = s.ec.reference ∧
      ((r = .hit ∧ flagValue s.cfg f b = e ∧ latches ctx t = latches ctx s) ∨
       (flagValue s.cfg f b = !e ∧
        latches ctx t = { latches ctx s with pollN := min ((latches ctx s).pollN + 1) 100 } ∧
        r = (if min ((latches ctx s).pollN + 1) 100 = 100 then .timeout else .miss) ∧
        (r = .timeout → m = true → s.ec.reference = false → t.ec.corrupt = true))) := by
  have hec : ∀ {b t}, portIn .sc s = .next (b, t) → t.ec = s.ec := by
    intro b t ht
    rw [portIn_sc s h] at ht
    injection ht with ht; injection ht with _ ht
    rw [← ht]; rfl
  obtain ⟨b, t, ht, hf, htr⟩ := portIn_next .sc s h
  have hcfg : t.cfg = s.cfg := by rw [hf]
  have hlog : t.log = s.log := by rw [hf]
  have hl : latches ctx t = latches ctx s := by rw [hf]; cases ctx <;> rfl
  have turn : ∀ u, EngineFrame ctx u (ecAdvance u) := fun u => (ecAdvance_frame u).engine ctx
  unfold pollOnce
  rw [ht, andThen_next, hcfg, hl]
  by_cases hb : flagValue s.cfg f b = e
  · rw [if_pos hb]
    exact ⟨.hit, b, _, rfl, (hf.engine ctx).trans (turn t), hlog, htr,
      by rw [ecAdvance_reference, hec ht], .inl ⟨rfl, hb, by simp [hl]⟩⟩
  · rw [if_neg hb]
    have hne : flagValue s.cfg f b = !e := by
      revert hb; cases flagValue s.cfg f b <;> cases e <;> simp
    have hset : EngineFrame ctx s (setPollN ctx (min ((latches ctx s).pollN + 1) Config.pollLimit) t) :=
      (hf.engine ctx).trans (setLatches_engine ctx _ t)
    dsimp only
    split
    · rename_i h100
      refine ⟨.timeout, b, _, rfl, (hset.trans (giveUp_engine ctx m _)).trans (turn _), ?_, ?_, ?_,
        .inr ⟨hne, ?_, ?_, ?_⟩⟩
      · simp [setPollN, hlog]
      · simp [setPollN, htr]
      · rw [ecAdvance_reference]; cases m <;> simp [giveUp, setPollN, hec ht]
      · simp [setPollN, hl]
      · rfl
      · intro _ hm href
        subst hm
        refine ecAdvance_corrupt _ (Ec.abandon_contract _ ?_)
        simp [setPollN, hec ht, href]
    · rename_i h100
      refine ⟨.miss, b, _, rfl, hset.trans (turn _), ?_, ?_, ?_, .inr ⟨hne, ?_, ?_, fun hr => by cases hr⟩⟩
      · simp [setPollN, hlog]
      · simp [setPollN, htr]
      · rw [ecAdvance_reference]; simp [setPollN, hec ht]
      · simp [setPollN, hl]
      · rfl

end Sys2Proof.Machine
end

