-- ==== Sys2Proof/Laws/Handshake.lean ====
section
/-! SUPPORT. What a wait, a write and a read can do, said once each: their traces have the shapes of
`30_encoding.md` R75 and R76 and `41_handshake.md` R111 to R118, and they change nothing of ECHC but the
latches of their context, the log and the trace. -/

namespace Sys2Proof.Machine

theorem allShow_nil (c : Config) (f : Flag) (v : Bool) : allShow c f v [] := by
  intro a h; cases h

theorem allShow_cons {c : Config} {f : Flag} {v : Bool} {b : Byte} {tr : List Access}
    (hb : flagValue c f b = v) (h : allShow c f v tr) : allShow c f v (.input .sc b :: tr) := by
  intro a ha
  rcases List.mem_cons.mp ha with rfl | ha
  · exact ⟨b, rfl, hb⟩
  · exact h a ha

/-! ## WAITFOR -/

/-- A run of polls from a count that leaves exactly `fuel` of them. -/
theorem pollUpTo_next (ctx : Ctx) (f : Flag) (e m : Bool) (fuel : Nat) (s : State) (h : s.acquired = true)
    (hp : (latches ctx s).pollN + fuel = 100) (hfuel : 0 < fuel) :
    ∃ r tr t, pollUpTo ctx f e m fuel s = .next (r, t) ∧ EngineFrame ctx s t ∧ t.log = s.log ∧
      t.trace = s.trace ++ tr ∧ (latches ctx t).pollN ≤ 100 ∧
      latches ctx t = { latches ctx s with pollN := (latches ctx t).pollN } ∧
      t.ec.reference = s.ec.reference ∧
      ((r = .ok () ∧ ∃ before b, tr = before ++ [.input .sc b] ∧ before.length < fuel ∧
          allShow s.cfg f (!e) before ∧ flagValue s.cfg f b = e ∧
          (latches ctx t).pollN = (latches ctx s).pollN + before.length) ∨
       (r = .error (timeoutInfo f e) ∧ tr.length = fuel ∧ allShow s.cfg f (!e) tr ∧
          (latches ctx t).pollN = 100 ∧ (m = true → s.ec.reference = false → t.ec.corrupt = true))) := by
  induction fuel generalizing s with
  | zero => exact absurd hfuel (by omega)
  | succ n ih =>
    obtain ⟨r, b, t, ht, hf, hlog, htr, href, hcase⟩ := pollOnce_next ctx f e m s h
    have hk := hf.kept
    unfold pollUpTo
    rw [ht, andThen_next]
    rcases hcase with ⟨rfl, hb, hl⟩ | ⟨hb, hl, hr, hcor⟩
    · exact ⟨_, [.input .sc b], t, rfl, hf, hlog, htr, by rw [hl]; omega, by rw [hl], href,
        .inl ⟨rfl, [], b, rfl, by simp, allShow_nil _ _ _, hb, by simp [hl]⟩⟩
    · have hmin : min ((latches ctx s).pollN + 1) 100 = (latches ctx s).pollN + 1 := by omega
      rw [hmin] at hl hr
      by_cases hn : (latches ctx s).pollN + 1 = 100
      · rw [if_pos hn] at hr
        subst hr
        have hn0 : n = 0 := by omega
        subst hn0
        exact ⟨_, [.input .sc b], t, rfl, hf, hlog, htr, by rw [hl]; simp only; omega, by rw [hl], href,
          .inr ⟨rfl, rfl, allShow_cons hb (allShow_nil _ _ _), by rw [hl]; exact hn, hcor rfl⟩⟩
      · rw [if_neg hn] at hr
        subst hr
        obtain ⟨r, tr, u, hu, hfu, hlogu, htru, hple, hlu, hrefu, hcase⟩ :=
          ih t (by rw [hk.2.1]; exact h) (by rw [hl]; simp only; omega) (by omega)
        rw [hk.1] at hcase
        refine ⟨r, .input .sc b :: tr, u, hu, hf.trans hfu, by rw [hlogu, hlog], by simp [htru, htr], hple,
          by rw [hlu, hl], hrefu.trans href, ?_⟩
        rcases hcase with ⟨rfl, before, b', rfl, hlen, hshow, hb', hpn⟩ | ⟨rfl, hlen, hshow, hpn, hcoru⟩
        · exact .inl ⟨rfl, .input .sc b :: before, b', rfl, by simp; omega, allShow_cons hb hshow, hb',
            by rw [hpn, hl]; simp only [List.length_cons]; omega⟩
        · exact .inr ⟨rfl, by simp [hlen], allShow_cons hb hshow, hpn, fun hm h0 => hcoru hm (href.trans h0)⟩

/-- `WAITFOR`: it succeeds after 1 to 100 polls, the unsuccessful ones counted, or times out after exactly
100 (R110, R111); a timeout that abandons a transaction leaves an EC of the contract corrupt (R50). -/
theorem waitfor_next (ctx : Ctx) (f : Flag) (e m : Bool) (s : State) (h : s.acquired = true) :
    ∃ r tr t, waitfor ctx f e m s = .next (r, t) ∧ EngineFrame ctx s t ∧ t.log = s.log ∧
      t.trace = s.trace ++ tr ∧ (latches ctx t).pollN ≤ 100 ∧
      latches ctx t = { latches ctx s with pollN := (latches ctx t).pollN } ∧
      t.ec.reference = s.ec.reference ∧
      ((r = .ok () ∧ GoodWait s.cfg f e tr ∧ (latches ctx t).pollN + 1 = tr.length) ∨
       (r = .error (timeoutInfo f e) ∧ BadWait s.cfg f e tr ∧ (latches ctx t).pollN = 100 ∧
        (m = true → s.ec.reference = false → t.ec.corrupt = true))) := by
  obtain ⟨r, tr, t, ht, hf, hlog, htr, hple, hl, href, hcase⟩ :=
    pollUpTo_next ctx f e m 100 (setPollN ctx 0 s) (by simp [setPollN, h]) (by simp [setPollN]) (by omega)
  refine ⟨r, tr, t, ht, (setLatches_engine ctx _ s).trans hf, by simpa [setPollN] using hlog,
    by simpa [setPollN] using htr, hple, by rw [hl]; simp [setPollN], by simpa [setPollN] using href, ?_⟩
  have hc : (setPollN ctx 0 s).cfg = s.cfg := by simp [setPollN]
  have he : (setPollN ctx 0 s).ec = s.ec := by simp [setPollN]
  have hn : (latches ctx (setPollN ctx 0 s)).pollN = 0 := by simp [setPollN]
  rw [hc, he, hn] at hcase
  rcases hcase with ⟨hr, before, b, htr, hlen, hshow, hb, hpn⟩ | ⟨hr, hlen, hshow, hpn, hcor⟩
  · exact .inl ⟨hr, ⟨before, b, htr, hlen, hshow, hb⟩, by rw [hpn, htr]; simp⟩
  · exact .inr ⟨hr, ⟨hlen, hshow⟩, hpn, hcor⟩

/-! ## EC_WRITE -/

/-- Two states of one transaction: the later one has the earlier one's latches but for the poll count. -/
def SameOperands (ctx : Ctx) (s t : State) : Prop :=
  (latches ctx t).pollN ≤ 100 ∧ latches ctx t = { latches ctx s with pollN := (latches ctx t).pollN }

theorem SameOperands.trans {ctx : Ctx} {s t u : State} (h : SameOperands ctx s t)
    (h' : SameOperands ctx t u) : SameOperands ctx s u :=
  ⟨h'.1, by rw [h'.2, h.2]⟩

/-- What a fail-fast stretch of a transaction does: it answers, changes only its context's latches (of
them only the poll count), the EC, the inputs used up and the trace, and its trace is that of `parts`. -/
def FailFastRun {α : Type} (ctx : Ctx) (parts : List Part) (s : State) (x : Res (Except TimeoutInfo α)) : Prop :=
  ∃ r tr t, x = .next (r, t) ∧ EngineFrame ctx s t ∧ t.log = s.log ∧ t.trace = s.trace ++ tr ∧
    FailFastTrace s.cfg parts (failureOf r) tr ∧ SameOperands ctx s t

/-- A wait and the send after it, then the rest. -/
theorem waitSend_run {α : Type} (ctx : Ctx) (m : Bool) (p : Port) (v : State → Byte) (vv : Byte) (s : State)
    (k : State → Res (Except TimeoutInfo α)) (parts : List Part) (h : s.acquired = true)
    (hv : ∀ u, EngineFrame ctx s u → SameOperands ctx s u → v u = vv)
    (hk : ∀ u, EngineFrame ctx s u → SameOperands ctx s u → FailFastRun ctx parts u (k u)) :
    FailFastRun ctx ((.ibf, false, some (.output p vv)) :: parts) s
      (orReturn (waitfor ctx .ibf false m s) fun _ u => andThen (send p (v u) u) fun _ w => k w) := by
  obtain ⟨r, tr, t, ht, hf, hlog, htr, hple, hl, -, hcase⟩ := waitfor_next ctx .ibf false m s h
  rw [ht]
  rcases hcase with ⟨rfl, hg, -⟩ | ⟨rfl, hb, -⟩
  · rw [orReturn_ok]
    obtain ⟨u, hu, hfu, htru⟩ := send_next p (v t) t (by rw [hf.kept.2.1]; exact h)
    rw [hu, andThen_next]
    have hlu : latches ctx u = latches ctx t := by rw [hfu]; cases ctx <;> rfl
    have hsu := hf.trans (hfu.engine ctx)
    have hlogu : u.log = s.log := by rw [hfu]; exact hlog
    have hso : SameOperands ctx s u := ⟨by rw [hlu]; exact hple, by rw [hlu]; exact hl⟩
    obtain ⟨r, tr', w, hw, hfw, hlogw, htrw, hff, hq⟩ := hk u hsu hso
    rw [hv t hf ⟨hple, hl⟩] at htru
    rw [hsu.kept.1] at hff
    exact ⟨r, tr ++ [.output p vv] ++ tr', w, hw, hsu.trans hfw, by rw [hlogw, hlogu],
      by simp [htrw, htru, htr], .inr ⟨tr, tr', hg, rfl, hff⟩, hso.trans hq⟩
  · rw [orReturn_error]
    exact ⟨_, tr, t, rfl, hf, hlog, htr, .inl ⟨rfl, hb⟩, hple, hl⟩

theorem writeTail_run (ctx : Ctx) (s : State) (h : s.acquired = true) (hp : (latches ctx s).pollN ≤ 100) :
    FailFastRun ctx (if s.cfg.writeTrailingWait then [(.ibf, false, none)] else []) s (writeTail ctx s) := by
  unfold writeTail
  split
  · obtain ⟨r, tr, t, ht, hf, hlog, htr, hple, hl, -, hcase⟩ := waitfor_next ctx .ibf false false s h
    refine ⟨r, tr, t, ht, hf, hlog, htr, ?_, hple, hl⟩
    rcases hcase with ⟨rfl, hg, -⟩ | ⟨rfl, hb, -⟩
    · exact .inr ⟨tr, [], hg, by simp, rfl, rfl⟩
    · exact .inl ⟨rfl, hb⟩
  · exact ⟨_, [], s, rfl, .refl _ _, rfl, by simp, ⟨rfl, rfl⟩, hp, rfl⟩

theorem writeDataPart_run (ctx : Ctx) (s : State) (h : s.acquired = true) :
    FailFastRun ctx ((.ibf, false, some (.output .data (latches ctx s).dataL)) ::
      (if s.cfg.writeTrailingWait then [(.ibf, false, none)] else [])) s (writeDataPart ctx s) := by
  refine waitSend_run ctx true .data (fun u => (latches ctx u).dataL) _ s (writeTail ctx) _ h
    (fun u _ ho => by rw [ho.2]) (fun u hu ho => ?_)
  have := writeTail_run ctx u (by rw [hu.kept.2.1]; exact h) ho.1
  rwa [hu.kept.1] at this

theorem writeAddrPart_run (ctx : Ctx) (s : State) (h : s.acquired = true) :
    FailFastRun ctx ((.ibf, false, some (.output .data (latches ctx s).addrL)) ::
      (.ibf, false, some (.output .data (latches ctx s).dataL)) ::
      (if s.cfg.writeTrailingWait then [(.ibf, false, none)] else [])) s (writeAddrPart ctx s) := by
  refine waitSend_run ctx true .data (fun u => (latches ctx u).addrL) _ s (writeDataPart ctx) _ h
    (fun u _ ho => by rw [ho.2]) (fun u hu ho => ?_)
  have := writeDataPart_run ctx u (by rw [hu.kept.2.1]; exact h)
  rwa [hu.kept.1, show (latches ctx u).dataL = (latches ctx s).dataL by rw [ho.2]] at this

/-- `EC_WRITE`: its trace is that of a fail-fast write transaction, its operands are latched, its
sequencer ends idle, and nothing is logged (R113, R115). -/
theorem ecWrite_next (ctx : Ctx) (a v : Byte) (s : State) (h : s.acquired = true) :
    ∃ r tr t, ecWrite ctx a v s = .next (r, t) ∧ EngineFrame ctx s t ∧ t.log = s.log ∧
      t.trace = s.trace ++ tr ∧ FailFastTrace s.cfg (writeParts s.cfg a v) (failureOf r) tr ∧
      (latches ctx t).pollN ≤ 100 ∧
      latches ctx t =
        { latches ctx s with hs := .idle, late := false, addrL := a, dataL := v, pollN := (latches ctx t).pollN } := by
  have start : EngineFrame ctx s (startWrite ctx .idle a v s) := setLatches_engine ctx _ s
  have hlat : latches ctx (startWrite ctx .idle a v s) =
      { latches ctx s with hs := .idle, late := false, addrL := a, dataL := v } := by simp [startWrite]
  have hlog0 : (startWrite ctx .idle a v s).log = s.log := by simp [startWrite]
  have htr0 : (startWrite ctx .idle a v s).trace = s.trace := by simp [startWrite]
  have hacq : (startWrite ctx .idle a v s).acquired = true := by rw [start.kept.2.1]; exact h
  obtain ⟨r, tr, t, ht, hf, hlog, htr, hff, hso⟩ :=
    waitSend_run ctx false .sc (fun u => u.cfg.board.ecCmdWrite) s.cfg.board.ecCmdWrite
      (startWrite ctx .idle a v s) (writeAddrPart ctx)
      ((.ibf, false, some (.output .data a)) :: (.ibf, false, some (.output .data v)) ::
        (if s.cfg.writeTrailingWait then [(.ibf, false, none)] else [])) hacq
      (fun u hu _ => by rw [hu.kept.1, start.kept.1])
      (fun u hu ho => by
        have hw := writeAddrPart_run ctx u (by rw [hu.kept.2.1]; exact hacq)
        have hlu := ho.2
        rw [hlat] at hlu
        rwa [hu.kept.1, start.kept.1, show (latches ctx u).dataL = v by rw [hlu],
          show (latches ctx u).addrL = a by rw [hlu]] at hw)
  rw [start.kept.1] at hff
  refine ⟨r, tr, t, ht, start.trans hf, by rw [hlog, hlog0], by rw [htr, htr0], hff, hso.1, ?_⟩
  have := hso.2
  rwa [hlat] at this

/-! ## EC_READ -/

/-- A wait of a read, by policy (R118): its answer says whether it succeeded. -/
theorem readWait_next (ctx : Ctx) (f : Flag) (e m : Bool) (s : State) (h : s.acquired = true) :
    ∃ r tr evs t, readWait ctx f e m s = .next (r, t) ∧ EngineFrame ctx s t ∧ t.log = s.log ++ evs ∧
      t.trace = s.trace ++ tr ∧ (latches ctx t).pollN ≤ 100 ∧
      latches ctx t = { latches ctx s with pollN := (latches ctx t).pollN } ∧
      ((s.cfg.readPolicy = .soft ∧ (∃ settled, r = .ok settled) ∧ SoftWait s.cfg ctx f e tr evs) ∨
       (s.cfg.readPolicy = .hard ∧ evs = [] ∧
        ((r = .ok true ∧ GoodWait s.cfg f e tr) ∨ (r = .error (timeoutInfo f e) ∧ BadWait s.cfg f e tr ∧
          (m = true → s.ec.reference = false → t.ec.corrupt = true))))) := by
  obtain ⟨r, tr, t, ht, hf, hlog, htr, hple, hl, -, hcase⟩ := waitfor_next ctx f e (readMidway m s) s h
  have hc := hf.kept.1
  unfold readWait
  rw [ht, andThen_next]
  rcases hcase with ⟨rfl, hg, -⟩ | ⟨rfl, hb, -, hcor⟩
  · refine ⟨_, tr, [], t, rfl, hf, by simp [hlog], htr, hple, hl, ?_⟩
    cases hpol : s.cfg.readPolicy
    · exact .inl ⟨rfl, ⟨_, rfl⟩, .inl ⟨hg, rfl⟩⟩
    · exact .inr ⟨rfl, rfl, .inl ⟨rfl, hg⟩⟩
  · cases hpol : s.cfg.readPolicy
    · simp only [hc, hpol]
      have he := emit_engine ctx (.timeoutLogged ctx (timeoutInfo f e)) t
      have hlat : latches ctx (emit (.timeoutLogged ctx (timeoutInfo f e)) t) = latches ctx t := by
        cases ctx <;> rfl
      exact ⟨_, tr, [.timeoutLogged ctx (timeoutInfo f e)], _, rfl,
        (hf.trans he).trans ((ecAdvance_frame _).engine ctx), by simp [hlog], by simp [htr],
        by rw [ecAdvance_latches, hlat]; exact hple, by rw [ecAdvance_latches, hlat]; exact hl,
        .inl ⟨by simp, ⟨_, rfl⟩, .inr ⟨hb, rfl⟩⟩⟩
    · simp only [hc, hpol]
      exact ⟨_, tr, [], t, rfl, hf, by simp [hlog], htr, hple, hl,
        .inr ⟨by simp, rfl, .inr ⟨rfl, hb, fun hm => hcor (by simp [readMidway, hm, hpol])⟩⟩⟩

/-- Two states of one read: the later one has the earlier one's latches but for the poll count and the
result byte. -/
def SameAddress (ctx : Ctx) (s t : State) : Prop :=
  (latches ctx t).pollN ≤ 100 ∧
  latches ctx t = { latches ctx s with pollN := (latches ctx t).pollN, resL := (latches ctx t).resL }

/-- What a stretch of a read does, by policy: under `soft` every part of it is made and it answers a
byte, under `hard` it is fail-fast (R118). -/
def ReadRun (ctx : Ctx) (parts : Byte → List Part) (s : State) (x : Res (Except TimeoutInfo Byte)) : Prop :=
  ∃ r b tr evs t, x = .next (r, t) ∧ EngineFrame ctx s t ∧ t.log = s.log ++ evs ∧ t.trace = s.trace ++ tr ∧
    ((s.cfg.readPolicy = .soft ∧ r = .ok b ∧ SoftTrace s.cfg ctx (parts b) tr evs) ∨
     (s.cfg.readPolicy = .hard ∧ evs = [] ∧ (∀ b', r = .ok b' → b' = b) ∧
      FailFastTrace s.cfg (parts b) (failureOf r) tr)) ∧
    (r = .ok b → (latches ctx t).resL = b) ∧ SameAddress ctx s t

/-- A wait of a read and the access after it, then the rest. -/
theorem readWaitThen_run (ctx : Ctx) (f : Flag) (e : Bool) (m : Bool) (x : Byte → Option Access)
    (parts : Byte → List Part) (s : State) (k : Bool → State → Res (Except TimeoutInfo Byte)) (h : s.acquired = true)
    (hk : ∀ settled t, EngineFrame ctx s t → SameOperands ctx s t →
      ∃ r b tr evs w, k settled t = .next (r, w) ∧ EngineFrame ctx t w ∧ w.log = t.log ++ evs ∧
        w.trace = t.trace ++ (x b).toList ++ tr ∧
        ((t.cfg.readPolicy = .soft ∧ r = .ok b ∧ SoftTrace t.cfg ctx (parts b) tr evs) ∨
         (t.cfg.readPolicy = .hard ∧ evs = [] ∧ (∀ b', r = .ok b' → b' = b) ∧
          FailFastTrace t.cfg (parts b) (failureOf r) tr)) ∧
        (r = .ok b → (latches ctx w).resL = b) ∧ SameAddress ctx t w) :
    ReadRun ctx (fun b => (f, e, x b) :: parts b) s (orReturn (readWait ctx f e m s) k) := by
  obtain ⟨r, tr, evs, t, ht, hf, hlog, htr, hple, hl, hcase⟩ := readWait_next ctx f e m s h
  rw [ht]
  have hso : SameOperands ctx s t := ⟨hple, hl⟩
  have hres : (latches ctx t).resL = (latches ctx s).resL := by rw [hl]
  have cont : ∀ settled, ∃ r' b tr' evs' w, k settled t = .next (r', w) ∧ EngineFrame ctx s w ∧
      w.log = s.log ++ (evs ++ evs') ∧ w.trace = s.trace ++ (tr ++ (x b).toList ++ tr') ∧
      ((s.cfg.readPolicy = .soft ∧ r' = .ok b ∧ SoftTrace s.cfg ctx (parts b) tr' evs') ∨
       (s.cfg.readPolicy = .hard ∧ evs' = [] ∧ (∀ b', r' = .ok b' → b' = b) ∧
        FailFastTrace s.cfg (parts b) (failureOf r') tr')) ∧
      (r' = .ok b → (latches ctx w).resL = b) ∧ SameAddress ctx s w := by
    intro settled
    obtain ⟨r', b, tr', evs', w, hw, hfw, hlogw, htrw, hc, hrl, hsa⟩ := hk settled t hf hso
    rw [hf.kept.1] at hc
    refine ⟨r', b, tr', evs', w, hw, hf.trans hfw, by simp [hlogw, hlog], by simp [htrw, htr], hc, hrl, hsa.1, ?_⟩
    rw [hsa.2, hl]
  rcases hcase with ⟨hpol, ⟨settled, rfl⟩, hsw⟩ | ⟨hpol, rfl, hc⟩
  · obtain ⟨r', b, tr', evs', w, hw, hfw, hlogw, htrw, hc, hrl, hsa⟩ := cont _
    rcases hc with ⟨-, hr', hst⟩ | ⟨hno, -⟩
    · exact ⟨r', b, _, _, w, hw, hfw, hlogw, htrw,
        .inl ⟨hpol, hr', tr, tr', evs, evs', hsw, rfl, rfl, hst⟩, hrl, hsa⟩
    · rw [hpol] at hno; cases hno
  · rcases hc with ⟨rfl, hg⟩ | ⟨rfl, hb, -⟩
    · obtain ⟨r', b, tr', evs', w, hw, hfw, hlogw, htrw, hc, hrl, hsa⟩ := cont _
      rcases hc with ⟨hno, -⟩ | ⟨-, rfl, hr', hff⟩
      · rw [hpol] at hno; cases hno
      · exact ⟨r', b, _, _, w, hw, hfw, by simpa using hlogw, htrw,
          .inr ⟨hpol, rfl, hr', .inr ⟨tr, tr', hg, rfl, hff⟩⟩, hrl, hsa⟩
    · exact ⟨_, 0, tr, [], t, rfl, hf, hlog, htr,
        .inr ⟨hpol, rfl, (fun _ hx => by cases hx), .inl ⟨rfl, hb⟩⟩, (fun hx => by cases hx), hple,
        by rw [hl]⟩

theorem readDataPart_run (ctx : Ctx) (s : State) (h : s.acquired = true) :
    ReadRun ctx (fun b => [(.obf, true, some (.input .data b))]) s (readDataPart ctx s) := by
  refine readWaitThen_run ctx .obf true true (fun b => some (.input .data b)) (fun _ => []) s
    (fun settled u => andThen (withTurn (readPort .data settled u)) fun b w => .next (.ok b, setResL ctx b w)) h
    (fun settled t ht ho => ?_)
  obtain ⟨b, u, hu, hf, htr⟩ := readPort_next .data settled t (by rw [ht.kept.2.1]; exact h)
  rw [hu, withTurn_next, andThen_next]
  have hlu : latches ctx u = latches ctx t := by rw [hf]; cases ctx <;> rfl
  refine ⟨.ok b, b, [], [], _, rfl, ((hf.trans (ecAdvance_frame u)).engine ctx).trans (setLatches_engine ctx _ _), ?_, ?_, ?_, ?_, ?_, ?_⟩
  · simp [setResL]; rw [hf]
  · simp [setResL, htr]
  · cases hpol : t.cfg.readPolicy
    · exact .inl ⟨rfl, rfl, rfl, rfl⟩
    · exact .inr ⟨rfl, rfl, (fun b' hb => by cases hb; rfl), rfl, rfl⟩
  · intro _; simp [setResL]
  · simp [setResL, hlu, ho.1]
  · simp [setResL, hlu]

theorem readAddrPart_run (ctx : Ctx) (s : State) (h : s.acquired = true) :
    ReadRun ctx (fun b => [(.ibf, false, some (.output .data (latches ctx s).addrL)),
      (.obf, true, some (.input .data b))]) s (readAddrPart ctx s) := by
  refine readWaitThen_run ctx .ibf false true (fun _ => some (.output .data (latches ctx s).addrL))
    (fun b => [(.obf, true, some (.input .data b))]) s
    (fun _ u => andThen (send .data (latches ctx u).addrL u) fun _ w => readDataPart ctx w) h (fun _ t ht ho => ?_)
  obtain ⟨u, hu, hf, htr⟩ := send_next .data (latches ctx t).addrL t (by rw [ht.kept.2.1]; exact h)
  rw [hu, andThen_next]
  have hlu : latches ctx u = latches ctx t := by rw [hf]; cases ctx <;> rfl
  have htu := hf.engine ctx
  obtain ⟨r, b, tr, evs, w, hw, hfw, hlogw, htrw, hc, hrl, hsa⟩ :=
    readDataPart_run ctx u (by rw [htu.kept.2.1, ht.kept.2.1]; exact h)
  rw [htu.kept.1] at hc
  have hlog : u.log = t.log := by rw [hf]
  refine ⟨r, b, tr, evs, w, hw, htu.trans hfw, by rw [hlogw, hlog], ?_, hc, hrl, hsa.1, by rw [hsa.2, hlu]⟩
  rw [htrw, htr, show (latches ctx t).addrL = (latches ctx s).addrL by rw [ho.2]]
  rfl

/-- `EC_READ`: its trace is that of a read transaction, complete under `soft` with its timeouts logged,
fail-fast under `hard`; its address is latched, its result is in `resL`, its sequencer ends idle (R116,
R118). -/
theorem ecRead_next (ctx : Ctx) (a : Byte) (s : State) (h : s.acquired = true) :
    ∃ r b tr evs t, ecRead ctx a s = .next (r, t) ∧ EngineFrame ctx s t ∧ t.log = s.log ++ evs ∧
      t.trace = s.trace ++ tr ∧
      ((s.cfg.readPolicy = .soft ∧ r = .ok b ∧ SoftTrace s.cfg ctx (readParts s.cfg a b) tr evs) ∨
       (s.cfg.readPolicy = .hard ∧ evs = [] ∧ (∀ b', r = .ok b' → b' = b) ∧
        FailFastTrace s.cfg (readParts s.cfg a b) (failureOf r) tr)) ∧
      (r = .ok b → (latches ctx t).resL = b) ∧ (latches ctx t).pollN ≤ 100 ∧
      latches ctx t = { latches ctx s with hs := .idle, late := false, addrL := a, pollN := (latches ctx t).pollN,
                                           resL := (latches ctx t).resL } := by
  have start : EngineFrame ctx s (startRead ctx .idle a s) := setLatches_engine ctx _ s
  have hlat : latches ctx (startRead ctx .idle a s) = { latches ctx s with hs := .idle, late := false, addrL := a } := by
    simp [startRead]
  have hlog0 : (startRead ctx .idle a s).log = s.log := by simp [startRead]
  have htr0 : (startRead ctx .idle a s).trace = s.trace := by simp [startRead]
  have hacq : (startRead ctx .idle a s).acquired = true := by rw [start.kept.2.1]; exact h
  obtain ⟨r, b, tr, evs, t, ht, hf, hlog, htr, hc, hrl, hsa⟩ :=
    readWaitThen_run ctx .ibf false false (fun _ => some (.output .sc s.cfg.board.ecCmdRead))
      (fun b => [(.ibf, false, some (.output .data a)), (.obf, true, some (.input .data b))])
      (startRead ctx .idle a s)
      (fun _ u => andThen (send .sc u.cfg.board.ecCmdRead u) fun _ w => readAddrPart ctx w) hacq
      (fun _ t ht ho => by
        obtain ⟨u, hu, hf, htr⟩ :=
          send_next .sc t.cfg.board.ecCmdRead t (by rw [ht.kept.2.1]; exact hacq)
        rw [hu, andThen_next]
        have hlu : latches ctx u = latches ctx t := by rw [hf]; cases ctx <;> rfl
        have htu := hf.engine ctx
        have haddr : (latches ctx u).addrL = a := by rw [hlu, ho.2, hlat]
        obtain ⟨r, b, tr, evs, w, hw, hfw, hlogw, htrw, hc, hrl, hsa⟩ :=
          readAddrPart_run ctx u (by rw [htu.kept.2.1, ht.kept.2.1]; exact hacq)
        rw [htu.kept.1, haddr] at hc
        have hlog : u.log = t.log := by rw [hf]
        refine ⟨r, b, tr, evs, w, hw, htu.trans hfw, by rw [hlogw, hlog], ?_, hc, hrl, hsa.1, by rw [hsa.2, hlu]⟩
        rw [htrw, htr, ht.kept.1, start.kept.1]
        rfl)
  rw [start.kept.1] at hc
  refine ⟨r, b, tr, evs, t, ht, start.trans hf, by rw [hlog, hlog0], by rw [htr, htr0], hc, hrl, hsa.1, ?_⟩
  have := hsa.2
  rwa [hlat] at this

end Sys2Proof.Machine
end

