-- ==== Sys2Proof/Laws/Closed.lean ====
section
/-! SUPPORT. A relation between states that every primitive access keeps is kept by every operation of
the EC Protocol Engine, whole or step by step: the induction over a transaction, packaged once. -/

namespace Sys2Proof.Machine

/-- A reflexive and transitive relation that the primitives of a transaction keep. -/
structure EngineClosed (R : State → State → Prop) : Prop where
  refl : ∀ s, R s s
  trans : ∀ {s t u}, R s t → R t u → R s u
  readPort : ∀ {p d s b t}, readPort p d s = .next (b, t) → R s t
  portOut : ∀ {p v s u t}, portOut p v s = .next (u, t) → R s t
  turn : ∀ s, R s (ecAdvance s)
  /-- Latches are set to anything with the poll count kept or within the cap. -/
  setLatches : ∀ ctx l s, l.pollN ≤ 100 ∨ l.pollN = (latches ctx s).pollN → R s (setLatches ctx l s)
  emit : ∀ e s, R s (emit e s)
  giveUp : ∀ m s, R s (giveUp m s)

/-- An answer that a relation holds of. -/
def Holds {α : Type} (R : State → State → Prop) (s : State) (r : Res α) : Prop :=
  ∀ a t, r = .next (a, t) → R s t

namespace EngineClosed

variable {R : State → State → Prop}

theorem next (_ : EngineClosed R) {α : Type} {s t : State} {a : α} (h : R s t) : Holds R s (.next (a, t)) := by
  intro b u hu
  injection hu with hu
  injection hu with _ hu
  exact hu ▸ h

theorem fault (_ : EngineClosed R) {α : Type} {s : State} {e : Fault} : Holds (α := α) R s (.fault e) := by
  intro b u hu
  cases hu

theorem andThen (hR : EngineClosed R) {α β : Type} {s : State} {r : Res α} {f : α → State → Res β}
    (hr : Holds R s r) (hf : ∀ a t, R s t → Holds R t (f a t)) : Holds R s (Machine.andThen r f) := by
  intro b u hu
  obtain ⟨a, t, ht, hbu⟩ := andThen_eq_next hu
  exact hR.trans (hr a t ht) (hf a t (hr a t ht) b u hbu)

theorem orReturn (hR : EngineClosed R) {α β ε : Type} {s : State} {r : Res (Except ε α)}
    {f : α → State → Res (Except ε β)} (hr : Holds R s r) (hf : ∀ a t, R s t → Holds R t (f a t)) :
    Holds R s (Machine.orReturn r f) := by
  refine hR.andThen hr fun a t ht => ?_
  cases a with
  | ok a => exact hf a t ht
  | error e => exact hR.next (hR.refl t)

theorem holds_portIn (hR : EngineClosed R) (p : Port) (s : State) : Holds R s (Machine.portIn p s) :=
  fun _ _ h => hR.readPort h

theorem withTurn (hR : EngineClosed R) {α : Type} {s : State} {r : Res α} (hr : Holds R s r) :
    Holds R s (Machine.withTurn r) :=
  hR.andThen hr fun _ t _ => hR.next (hR.turn t)

theorem send (hR : EngineClosed R) (p : Port) (v : Byte) (s : State) : Holds R s (Machine.send p v s) :=
  hR.withTurn fun _ _ h => hR.portOut h

theorem dataRead (hR : EngineClosed R) (p : Port) (d : Bool) (s : State) :
    Holds R s (Machine.withTurn (Machine.readPort p d s)) :=
  hR.withTurn fun _ _ h => hR.readPort h

theorem pollOnce (hR : EngineClosed R) (ctx : Ctx) (f : Flag) (e m : Bool) (s : State) :
    Holds R s (Machine.pollOnce ctx f e m s) := by
  refine hR.andThen (hR.holds_portIn _ _) fun b t _ => ?_
  split
  · exact hR.next (hR.turn t)
  · have hset : R t (setPollN ctx (min ((latches ctx t).pollN + 1) Config.pollLimit) t) :=
      hR.setLatches _ _ _ (.inl (Nat.min_le_right _ _))
    dsimp only
    split
    · exact hR.next (hR.trans (hR.trans hset (hR.giveUp m _)) (hR.turn _))
    · exact hR.next (hR.trans hset (hR.turn _))

theorem pollUpTo (hR : EngineClosed R) (ctx : Ctx) (f : Flag) (e m : Bool) (n : Nat) (s : State) :
    Holds R s (Machine.pollUpTo ctx f e m n s) := by
  induction n generalizing s with
  | zero => exact hR.next (hR.refl s)
  | succ n ih =>
    refine hR.andThen (hR.pollOnce ctx f e m s) fun r t _ => ?_
    cases r with
    | hit => exact hR.next (hR.refl t)
    | timeout => exact hR.next (hR.refl t)
    | miss => exact ih t

theorem waitfor (hR : EngineClosed R) (ctx : Ctx) (f : Flag) (e m : Bool) (s : State) :
    Holds R s (Machine.waitfor ctx f e m s) :=
  fun a t h => hR.trans (hR.setLatches _ _ _ (.inl (Nat.zero_le _))) (hR.pollUpTo ctx f e m _ _ a t h)

theorem ecWrite (hR : EngineClosed R) (ctx : Ctx) (a v : Byte) (s : State) :
    Holds R s (Machine.ecWrite ctx a v s) := by
  intro b u hu
  have start : R s (startWrite ctx .idle a v s) := hR.setLatches _ _ _ (.inr rfl)
  refine hR.trans start ?_
  refine (hR.orReturn (hR.waitfor ctx .ibf false false _) fun _ t _ =>
    hR.andThen (hR.send _ _ _) fun _ t _ =>
    hR.orReturn (hR.waitfor ctx .ibf false true _) fun _ t _ =>
    hR.andThen (hR.send _ _ _) fun _ t _ =>
    hR.orReturn (hR.waitfor ctx .ibf false true _) fun _ t _ =>
    hR.andThen (hR.send _ _ _) fun _ t _ => ?_) b u hu
  unfold writeTail
  split
  · exact hR.waitfor ctx .ibf false false t
  · exact hR.next (hR.refl t)

theorem setResL (hR : EngineClosed R) (ctx : Ctx) (b : Byte) (s : State) : R s (Machine.setResL ctx b s) :=
  hR.setLatches _ _ _ (.inr rfl)

theorem readWait (hR : EngineClosed R) (ctx : Ctx) (f : Flag) (e m : Bool) (s : State) :
    Holds R s (Machine.readWait ctx f e m s) := by
  refine hR.andThen (hR.waitfor ctx f e _ s) fun r t _ => ?_
  cases r with
  | ok _ => exact hR.next (hR.refl t)
  | error i =>
    dsimp only
    split
    · exact hR.next (hR.trans (hR.emit _ t) (hR.turn _))
    · exact hR.next (hR.refl t)

theorem ecRead (hR : EngineClosed R) (ctx : Ctx) (a : Byte) (s : State) :
    Holds R s (Machine.ecRead ctx a s) := by
  intro b u hu
  have start : R s (startRead ctx .idle a s) := hR.setLatches _ _ _ (.inr rfl)
  refine hR.trans start ?_
  exact (hR.orReturn (hR.readWait ctx .ibf false false _) fun _ t _ =>
    hR.andThen (hR.send _ _ _) fun _ t _ =>
    hR.orReturn (hR.readWait ctx .ibf false true _) fun _ t _ =>
    hR.andThen (hR.send _ _ _) fun _ t _ =>
    hR.orReturn (hR.readWait ctx .obf true true _) fun _ t _ =>
    hR.andThen (hR.dataRead _ _ _) fun b t _ => hR.next (hR.setResL ctx b t)) b u hu

theorem writeDuty (hR : EngineClosed R) (ctx : Ctx) (d : Duty) (s : State) :
    Holds R s (Machine.writeDuty ctx d s) := fun a t h => hR.trans (hR.turn s) (hR.ecWrite ctx _ _ _ a t h)

theorem goto (hR : EngineClosed R) (ctx : Ctx) (hs : Hs) (s : State) : R s (Machine.goto ctx hs s) := by
  refine hR.setLatches _ _ _ ?_
  cases hs <;> first | exact .inl (Nat.zero_le _) | exact .inr rfl

theorem setLate (hR : EngineClosed R) (ctx : Ctx) (s : State) : R s (Machine.setLate ctx s) :=
  hR.setLatches _ _ _ (.inr rfl)

theorem writeWaitStep (hR : EngineClosed R) (ctx : Ctx) (hs : Hs) (m : Bool) (s : State) :
    Holds R s (Machine.writeWaitStep ctx hs m s) := by
  refine hR.andThen (hR.pollOnce ctx _ _ m s) fun r t _ => ?_
  cases r with
  | hit => exact hR.next (hR.goto _ _ _)
  | miss => exact hR.next (hR.refl t)
  | timeout => exact hR.next (hR.goto _ _ t)

theorem readWaitStep (hR : EngineClosed R) (ctx : Ctx) (f : Flag) (e : Bool) (hs : Hs) (m : Bool) (s : State) :
    Holds R s (Machine.readWaitStep ctx f e hs m s) := by
  unfold Machine.readWaitStep
  split
  · exact hR.next (hR.trans (hR.trans (hR.emit _ s) (hR.turn _)) (hR.goto _ _ _))
  · refine hR.andThen (hR.pollOnce ctx _ _ _ s) fun r t _ => ?_
    cases r with
    | hit => exact hR.next (hR.goto _ _ _)
    | miss => exact hR.next (hR.refl t)
    | timeout =>
      dsimp only
      split
      · exact hR.next (hR.setLate _ _)
      · exact hR.next (hR.goto _ _ _)

theorem sendStep (hR : EngineClosed R) (ctx : Ctx) (p : Port) (v : Byte) (hs : Hs) (s : State) :
    Holds R s (Machine.sendStep ctx p v hs s) :=
  hR.andThen (hR.send _ _ _) fun _ _ _ => hR.next (hR.goto _ _ _)

theorem dataStep (hR : EngineClosed R) (ctx : Ctx) (s : State) : Holds R s (Machine.dataStep ctx s) :=
  hR.andThen (hR.dataRead _ _ _) fun _ _ _ => hR.next (hR.trans (hR.setResL _ _ _) (hR.goto _ _ _))

theorem handshakeStep (hR : EngineClosed R) (ctx : Ctx) (s : State) :
    Holds R s (Machine.handshakeStep ctx s) := by
  unfold Machine.handshakeStep
  split
  case h_1 => exact hR.next (hR.refl s)
  all_goals first
    | exact hR.writeWaitStep _ _ _ _
    | exact hR.readWaitStep _ _ _ _ _ _
    | exact hR.sendStep _ _ _ _ _
    | exact hR.dataStep _ _

theorem beginWrite (hR : EngineClosed R) (ctx : Ctx) (a v : Byte) (s : State) :
    R s (Machine.beginWrite ctx a v s) := by
  have start : R s (startWrite ctx .wWait1 a v s) := hR.setLatches _ _ _ (.inr rfl)
  exact hR.trans start (hR.goto _ _ _)

theorem beginDutyWrite (hR : EngineClosed R) (ctx : Ctx) (d : Duty) (s : State) :
    R s (Machine.beginDutyWrite ctx d s) := hR.beginWrite ctx _ _ s

theorem beginRead (hR : EngineClosed R) (ctx : Ctx) (a : Byte) (s : State) :
    R s (Machine.beginRead ctx a s) := by
  have start : R s (startRead ctx .rWait1 a s) := hR.setLatches _ _ _ (.inr rfl)
  exact hR.trans start (hR.goto _ _ _)

end EngineClosed

/-- A port read changes the EC's OBF flag at most. -/
theorem readPort_ec {p : Port} {d : Bool} {s t : State} {b : Byte} (h : readPort p d s = .next (b, t)) :
    t.ec = s.ec ∨ t.ec = { s.ec with obf := false } := by
  unfold readPort at h
  split at h
  · cases p with
    | sc => injection h with h; injection h with _ h; rw [← h]; exact .inl rfl
    | data =>
      dsimp only at h
      split at h
      all_goals
        split at h
        all_goals
          injection h with h; injection h with _ h; rw [← h]
          first | exact .inl rfl | exact .inr rfl
  · cases h

/-- A port write is a byte received. -/
theorem portOut_ec {p : Port} {v : Byte} {s t : State} {u : Unit} (h : portOut p v s = .next (u, t)) :
    t.ec = Ec.receive p v s.ec := by
  unfold portOut at h
  split at h
  · injection h with h; injection h with _ h; rw [← h]; rfl
  · cases h

/-- The canonical form of the EC register file is kept. -/
theorem regsWf_engineClosed : EngineClosed fun s t => s.ec.regs.wf = true → t.ec.regs.wf = true where
  refl _ h := h
  trans h h' hs := h' (h hs)
  readPort {p d s b t} h hs := by rcases readPort_ec h with h' | h' <;> rw [h'] <;> exact hs
  portOut {p v s u t} h hs := by rw [portOut_ec h, Ec.receive_regs]; exact hs
  turn s := ecAdvance_wf s
  setLatches ctx l s _ h := by simpa using h
  emit e s h := h
  giveUp m s h := by cases m <;> exact h

/-- The kind of EC is kept, and no operation ends its corruption (R50, log 26). -/
theorem corruption_engineClosed :
    EngineClosed fun s t => t.ec.reference = s.ec.reference ∧ (s.ec.corrupt = true → t.ec.corrupt = true) where
  refl _ := ⟨rfl, id⟩
  trans h h' := ⟨h'.1.trans h.1, fun hs => h'.2 (h.2 hs)⟩
  readPort {p d s b t} h := by rcases readPort_ec h with h' | h' <;> rw [h'] <;> exact ⟨rfl, id⟩
  portOut {p v s u t} h := by
    rw [portOut_ec h]
    exact ⟨Ec.receive_reference _ _ _, Ec.receive_corrupt _ _ _⟩
  turn s := ⟨ecAdvance_reference s, ecAdvance_corrupt s⟩
  setLatches ctx l s _ := by simp
  emit e s := ⟨rfl, id⟩
  giveUp m s := by
    cases m
    · exact ⟨rfl, id⟩
    · exact ⟨rfl, Ec.abandon_corrupt _⟩

end Sys2Proof.Machine
end

