-- ==== Sys2Proof/Laws/Exec.lean ====
section
/-! SUPPORT. What an issued operation and a step can do around a meaning, said once each. -/

namespace Sys2Proof.Machine

/-- Once `EXIT` is written no operation is taken (R25). -/
theorem perform_exit {f : State → Res Ret} {s : State} (h : s.top = .exit) : perform f s = .fault .exited := by
  simp only [perform, h]

/-- Once `EXIT` is written no step is taken (R25). -/
theorem step_exit {s : State} (h : s.top = .exit) : step s = .fault .exited := by
  simp only [step, nextStep, h]

/-- A step with an operation on the issue port. -/
theorem step_issue {s : State} {bs : List Byte} (h : s.top ≠ .exit) (hi : s.issue = some bs) :
    step s = issueStep bs s := by
  simp only [step, nextStep]
  cases ht : s.top with
  | exit => exact absurd ht h
  | _ => simp only [hi]

/-- A step with nothing on the issue port is a step of the sequencers. -/
theorem step_sequencer {s : State} (h : s.top ≠ .exit) (hi : s.issue = none) :
    step s = forget (sequencerStep s) := by
  simp only [step, nextStep]
  cases ht : s.top with
  | exit => exact absurd ht h
  | _ => simp only [hi]

/-- A step that answers is an operation from the issue port or a step of the sequencers. -/
theorem step_eq_next {s t : State} (h : step s = .next t) :
    s.top ≠ .exit ∧
    ((∃ bs i rest, s.issue = some bs ∧ decode bs = .ok (i, rest) ∧ exec i (clearIssue s) = .next t) ∨
     (s.issue = none ∧ sequencerStep s = .next ((), t))) := by
  have htop : s.top ≠ .exit := fun ht => by rw [step_exit ht] at h; cases h
  refine ⟨htop, ?_⟩
  cases hi : s.issue with
  | some bs =>
    rw [step_issue htop hi] at h
    unfold issueStep at h
    split at h
    · exact .inl ⟨bs, _, _, rfl, by assumption, h⟩
    · cases h
  | none =>
    rw [step_sequencer htop hi] at h
    refine .inr ⟨rfl, ?_⟩
    cases hr : sequencerStep s with
    | next x => rw [hr] at h; injection h with h; rw [← h]
    | fault e => rw [hr] at h; cases h
    | refused e => rw [hr] at h; cases h

/-! ## Every operation is performed -/

/-- What each instruction performs. -/
def operation (i : Instr) (s : State) : Res Ret :=
  match i with
  | .acquire => .next (retUnit (acquire s).1, ecAdvance (acquire s).2)
  | .portIn p => andThen (withTurn (portIn p s)) fun b t => .next (.byte b, t)
  | .portOut p v => andThen (withTurn (portOut p v s)) fun _ t => .next (.ok, t)
  | .waitfor f e => andThen (waitfor .main f e false s) fun r t => .next (retUnit (r.mapError .timeout), t)
  | .ecWrite a v => andThen (ecWrite .main a v s) fun r t => .next (retUnit (r.mapError .timeout), t)
  | .ecRead a => andThen (ecRead .main a s) fun r t =>
      match r with
      | .ok b => .next (.byte b, t)
      | .error i => .next (.err (.timeout i), t)
  | .dutyWrite p => andThen (dutyWrite .main p s) fun r t => .next (retUnit r, t)
  | .dutyDec raw => .next (.int (dutyDec raw).val, ecAdvance s)
  | .dutyEnc p => .next (.byte (dutyEnc p), ecAdvance s)
  | .rpmDec hi lo => .next (.int (rpmDec hi lo), ecAdvance s)
  | .tempDec raw => .next (.int (tempDec raw).toNat, ecAdvance s)
  | .snapDecode img => .next (.fields (snapDecode s.cfg img), ecAdvance s)
  | .identifyDuty x => .next (.int (identifyDuty x), ecAdvance s)
  | .threshold t x => .next (.target (threshold t.toNat x), ecAdvance s)
  | .nextDuty c g d => .next (.target (nextDuty c g d), ecAdvance s)
  | .dump => runDump s
  | .setduty n => runSetduty n s
  | .auto => runAuto s
  | .invalid => .next (retUnit (takeCommand .invalid s).1, ecAdvance (takeCommand .invalid s).2)
  | .polledSnapshot => andThen (polledSnapshot s) fun r t =>
      match r with
      | .ok f => .next (.fields f, t)
      | .error i => .next (.err (.timeout i), t)
  | .snapRead =>
      match snapRead s with
      | (.ok img, t) => .next (.image img, ecAdvance t)
      | (.error e, t) => .next (.err e.err, ecAdvance t)
  | .tick => andThen (runTick s) fun _ t => .next (.ok, t)
  | .guard _ => stopRequest s

/-- Which of the eight signals made a stop request makes no difference (R210). -/
theorem exec_guard_signal (a b : StopSignal) (s : State) : exec (.guard a) s = exec (.guard b) s := rfl

/-- Every meaning is its operation, performed. -/
theorem exec_eq_perform (i : Instr) (s : State) : exec i s = perform (operation i) s := by
  cases i <;> rfl

/-- What an operation that answers did. -/
theorem exec_eq_next {i : Instr} {s t : State} (h : exec i s = .next t) :
    s.top ≠ .exit ∧ ∃ r u, operation i s = .next (r, u) ∧ t = { u with ret := r } := by
  rw [exec_eq_perform] at h
  exact perform_eq_next h

/-- Once `EXIT` is written no operation is taken (R25). -/
theorem exec_exit {s : State} (i : Instr) (h : s.top = .exit) : exec i s = .fault .exited := by
  rw [exec_eq_perform, perform_exit h]

/-! ## One lemma per operation: its answer, from the answer of what it performs -/

theorem exec_acquire {s : State} (h : s.top ≠ .exit) :
    exec .acquire s = .next { ecAdvance (acquire s).2 with ret := retUnit (acquire s).1 } := by
  show execAcquire s = _
  unfold execAcquire
  exact perform_next h rfl

theorem exec_portIn {p : Port} {s t : State} {b : Byte} (h : s.top ≠ .exit) (hp : portIn p s = .next (b, t)) :
    exec (.portIn p) s = .next { ecAdvance t with ret := .byte b } := by
  show execPortIn p s = _
  unfold execPortIn
  exact perform_next h (by rw [hp]; rfl)

theorem exec_portOut {p : Port} {v : Byte} {s t : State} (h : s.top ≠ .exit) (hp : portOut p v s = .next ((), t)) :
    exec (.portOut p v) s = .next { ecAdvance t with ret := .ok } := by
  show execPortOut p v s = _
  unfold execPortOut
  exact perform_next h (by rw [hp]; rfl)

theorem exec_waitfor {f : Flag} {e : Bool} {s t : State} {r : Except TimeoutInfo Unit} (h : s.top ≠ .exit)
    (hp : waitfor .main f e false s = .next (r, t)) :
    exec (.waitfor f e) s = .next { t with ret := retUnit (r.mapError .timeout) } := by
  show execWaitfor f e s = _
  unfold execWaitfor
  exact perform_next h (by rw [hp]; rfl)

theorem exec_ecWrite {a v : Byte} {s t : State} {r : Except TimeoutInfo Unit} (h : s.top ≠ .exit)
    (hp : ecWrite .main a v s = .next (r, t)) :
    exec (.ecWrite a v) s = .next { t with ret := retUnit (r.mapError .timeout) } := by
  show execEcWrite a v s = _
  unfold execEcWrite
  exact perform_next h (by rw [hp]; rfl)

theorem exec_ecRead_ok {a b : Byte} {s t : State} (h : s.top ≠ .exit) (hp : ecRead .main a s = .next (.ok b, t)) :
    exec (.ecRead a) s = .next { t with ret := .byte b } := by
  show execEcRead a s = _
  unfold execEcRead
  exact perform_next h (by rw [hp]; rfl)

theorem exec_ecRead_error {a : Byte} {i : TimeoutInfo} {s t : State} (h : s.top ≠ .exit)
    (hp : ecRead .main a s = .next (.error i, t)) : exec (.ecRead a) s = .next { t with ret := .err (.timeout i) } := by
  show execEcRead a s = _
  unfold execEcRead
  exact perform_next h (by rw [hp]; rfl)

theorem exec_dutyWrite {p : Int} {s t : State} {r : Except Err Unit} (h : s.top ≠ .exit)
    (hp : dutyWrite .main p s = .next (r, t)) : exec (.dutyWrite p) s = .next { t with ret := retUnit r } := by
  show execDutyWrite p s = _
  unfold execDutyWrite
  exact perform_next h (by rw [hp]; rfl)

theorem exec_dutyDec {raw : Byte} {s : State} (h : s.top ≠ .exit) :
    exec (.dutyDec raw) s = .next { ecAdvance s with ret := .int (dutyDec raw).val } := by
  show execDutyDec raw s = _
  unfold execDutyDec
  exact perform_next h rfl

theorem exec_dutyEnc {p : Duty} {s : State} (h : s.top ≠ .exit) :
    exec (.dutyEnc p) s = .next { ecAdvance s with ret := .byte (dutyEnc p) } := by
  show execDutyEnc p s = _
  unfold execDutyEnc
  exact perform_next h rfl

theorem exec_rpmDec {hi lo : Byte} {s : State} (h : s.top ≠ .exit) :
    exec (.rpmDec hi lo) s = .next { ecAdvance s with ret := .int (rpmDec hi lo) } := by
  show execRpmDec hi lo s = _
  unfold execRpmDec
  exact perform_next h rfl

theorem exec_tempDec {raw : Byte} {s : State} (h : s.top ≠ .exit) :
    exec (.tempDec raw) s = .next { ecAdvance s with ret := .int (tempDec raw).toNat } := by
  show execTempDec raw s = _
  unfold execTempDec
  exact perform_next h rfl

theorem exec_snapDecode {img : Image} {s : State} (h : s.top ≠ .exit) :
    exec (.snapDecode img) s = .next { ecAdvance s with ret := .fields (snapDecode s.cfg img) } := by
  show execSnapDecode img s = _
  unfold execSnapDecode
  exact perform_next h rfl

theorem exec_identifyDuty {x : Int} {s : State} (h : s.top ≠ .exit) :
    exec (.identifyDuty x) s = .next { ecAdvance s with ret := .int (identifyDuty x) } := by
  show execIdentifyDuty x s = _
  unfold execIdentifyDuty
  exact perform_next h rfl

theorem exec_threshold {t : Byte} {x : Int} {s : State} (h : s.top ≠ .exit) :
    exec (.threshold t x) s = .next { ecAdvance s with ret := .target (threshold t.toNat x) } := by
  show execThreshold t x s = _
  unfold execThreshold
  exact perform_next h rfl

theorem exec_nextDuty {c g : Byte} {d : Duty} {s : State} (h : s.top ≠ .exit) :
    exec (.nextDuty c g d) s = .next { ecAdvance s with ret := .target (nextDuty c g d) } := by
  show execNextDuty c g d s = _
  unfold execNextDuty
  exact perform_next h rfl

theorem exec_dump {s t : State} {r : Ret} (h : s.top ≠ .exit) (hp : runDump s = .next (r, t)) :
    exec .dump s = .next { t with ret := r } := by
  show execDump s = _
  unfold execDump
  exact perform_next h hp

theorem exec_setduty {n : Duty} {s t : State} {r : Ret} (h : s.top ≠ .exit) (hp : runSetduty n s = .next (r, t)) :
    exec (.setduty n) s = .next { t with ret := r } := by
  show execSetduty n s = _
  unfold execSetduty
  exact perform_next h hp

theorem exec_auto {s t : State} {r : Ret} (h : s.top ≠ .exit) (hp : runAuto s = .next (r, t)) :
    exec .auto s = .next { t with ret := r } := by
  show execAuto s = _
  unfold execAuto
  exact perform_next h hp

theorem exec_invalid {s : State} (h : s.top ≠ .exit) :
    exec .invalid s = .next { ecAdvance (takeCommand .invalid s).2 with ret := retUnit (takeCommand .invalid s).1 } := by
  show execInvalid s = _
  unfold execInvalid
  exact perform_next h rfl

theorem exec_polledSnapshot_ok {s t : State} {f : Fields} (h : s.top ≠ .exit)
    (hp : polledSnapshot s = .next (.ok f, t)) : exec .polledSnapshot s = .next { t with ret := .fields f } := by
  show execPolledSnapshot s = _
  unfold execPolledSnapshot
  exact perform_next h (by rw [hp]; rfl)

theorem exec_polledSnapshot_error {s t : State} {i : TimeoutInfo} (h : s.top ≠ .exit)
    (hp : polledSnapshot s = .next (.error i, t)) :
    exec .polledSnapshot s = .next { t with ret := .err (.timeout i) } := by
  show execPolledSnapshot s = _
  unfold execPolledSnapshot
  exact perform_next h (by rw [hp]; rfl)

theorem exec_snapRead_ok {s t : State} {img : Image} (h : s.top ≠ .exit) (hp : snapRead s = (.ok img, t)) :
    exec .snapRead s = .next { ecAdvance t with ret := .image img } := by
  show execSnapRead s = _
  unfold execSnapRead
  exact perform_next h (by rw [hp])

theorem exec_snapRead_error {s t : State} {e : SnapFailure} (h : s.top ≠ .exit) (hp : snapRead s = (.error e, t)) :
    exec .snapRead s = .next { ecAdvance t with ret := .err e.err } := by
  show execSnapRead s = _
  unfold execSnapRead
  exact perform_next h (by rw [hp])

theorem exec_tick {s t : State} (h : s.top ≠ .exit) (hp : runTick s = .next ((), t)) :
    exec .tick s = .next { t with ret := .ok } := by
  show execTick s = _
  unfold execTick
  exact perform_next h (by rw [hp]; rfl)

theorem exec_guard {signal : StopSignal} {s t : State} {r : Ret} (h : s.top ≠ .exit)
    (hp : stopRequest s = .next (r, t)) : exec (.guard signal) s = .next { t with ret := r } := by
  show execGuard signal s = _
  unfold execGuard
  exact perform_next h hp

end Sys2Proof.Machine
end

