-- ==== Sys2Proof/Laws/Control.lean ====
section
/-! SUPPORT. What taking a host command, a bulk read and the steps of the loop do, said once each. -/

namespace Sys2Proof.Machine

/-- `ACQUIRE` with privilege (R100). -/
theorem acquire_ok {s : State} (h : s.priv = true) : acquire s = (.ok (), { s with acquired := true }) := by
  unfold acquire
  rw [if_pos h]

/-- `ACQUIRE` without privilege (R100). -/
theorem acquire_denied {s : State} (h : s.priv = false) : acquire s = (.error .permission, s) := by
  unfold acquire
  rw [if_neg (by rw [h]; exact Bool.false_ne_true)]

/-- An `INVALID` command (R206). -/
theorem takeCommand_invalid (s : State) :
    takeCommand .invalid s = (.error (.invalidInvocation s.invocation), fatal .usageError s) := rfl

/-- Any other command without privilege (R201). -/
theorem takeCommand_denied {c : HostCommand} {s : State} (hc : c ≠ .invalid) (h : s.priv = false) :
    takeCommand c s = (.error .permission, fatal .permissionDenied s) := by
  cases c with
  | invalid => exact absurd rfl hc
  | _ => simp only [takeCommand, acquire_denied h]

/-- Any other command with privilege: its mode is entered (R170). -/
theorem takeCommand_ok {c : HostCommand} {s : State} (hc : c ≠ .invalid) (h : s.priv = true) :
    takeCommand c s =
      (.ok (), { s with acquired := true, cmd := c, top := (modeOf c).1, phase := (modeOf c).2 }) := by
  cases c with
  | invalid => exact absurd rfl hc
  | _ => simp only [takeCommand, acquire_ok h]

/-- A bulk read that cannot be opened (R176). -/
theorem snapRead_openFail {s : State} (h : nextSnap s = .openFail) :
    snapRead s = (.error .openFail, (drawSnap s).2) := by
  unfold nextSnap at h
  simp only [snapRead, drawSnap, h]

/-- A bulk read that fails (R176). -/
theorem snapRead_readError {s : State} (h : nextSnap s = .readError) :
    snapRead s = (.error .readError, (drawSnap s).2) := by
  unfold nextSnap at h
  simp only [snapRead, drawSnap, h]

/-- A bulk read of another length than 256 (R176). -/
theorem snapRead_short {s : State} {bs : List Byte} (h : nextSnap s = .bytes bs) (hl : bs.length ≠ 256) :
    snapRead s = (.error (.sizeMismatch bs.length), (drawSnap s).2) := by
  unfold nextSnap at h
  simp only [snapRead, drawSnap, h, Config.snapshotSize]
  rw [if_neg hl]

/-- A full bulk read: the register file at this instant (R55). -/
theorem snapRead_full {s : State} {bs : List Byte} (h : nextSnap s = .bytes bs) (hl : bs.length = 256) :
    snapRead s = (.ok s.ec.regs.image, { (drawSnap s).2 with snap := s.ec.regs.image }) := by
  unfold nextSnap at h
  simp only [snapRead, drawSnap, h, Config.snapshotSize]
  rw [if_pos hl]

/-- The scripted answer. -/
theorem nextSnap_script {s : State} {a : SnapAnswer} {rest : List SnapAnswer} (h : s.env.snaps = a :: rest) :
    nextSnap s = a := by
  unfold nextSnap
  rw [h]
  rfl

/-! ## The EC changes by its own steps only -/

theorem EcTurns.refl (c : Config) (e : Ec) : EcTurns c e e := ⟨[], rfl⟩

theorem EcTurns.trans {c : Config} {e e' e'' : Ec} (h : EcTurns c e e') (h' : EcTurns c e' e'') :
    EcTurns c e e'' := by
  obtain ⟨l, rfl⟩ := h
  obtain ⟨l', rfl⟩ := h'
  exact ⟨l ++ l', by rw [List.foldl_append]⟩

theorem ecAdvance_turns (s : State) : EcTurns s.cfg s.ec (ecAdvance s).ec :=
  ⟨[(headOr s.env.moves (Config.freeMoves s.env.drawn), Config.freeWrites s.env.drawn)], rfl⟩

end Sys2Proof.Machine
end

