-- ==== Sys2Proof/Laws/PerInstr.lean ====
section
/-! SUPPORT. A statement about every instruction as syntax, made per constructor: its operation word is
not empty and fits the 257 bytes a table word is laid out in (log 11). -/

namespace Sys2Proof.Laws.OperationWord

/-- The operation word fits a table word. -/
def Statement (i : Instr) : Prop := 0 < (encode i).length ∧ (encode i).length ≤ 257

theorem acquire : Statement .acquire := by simp [Statement, encode]
theorem portIn (p : Port) : Statement (.portIn p) := by simp [Statement, encode]
theorem portOut (p : Port) (v : Byte) : Statement (.portOut p v) := by simp [Statement, encode]
theorem waitfor (f : Flag) (e : Bool) : Statement (.waitfor f e) := by simp [Statement, encode]
theorem ecWrite (a v : Byte) : Statement (.ecWrite a v) := by simp [Statement, encode]
theorem ecRead (a : Byte) : Statement (.ecRead a) := by simp [Statement, encode]
theorem dutyWrite (p : Int) : Statement (.dutyWrite p) := by simp [Statement, encode, encodeInt]
theorem dutyDec (r : Byte) : Statement (.dutyDec r) := by simp [Statement, encode]
theorem dutyEnc (p : Duty) : Statement (.dutyEnc p) := by simp [Statement, encode]
theorem rpmDec (h l : Byte) : Statement (.rpmDec h l) := by simp [Statement, encode]
theorem tempDec (r : Byte) : Statement (.tempDec r) := by simp [Statement, encode]
theorem snapDecode (img : Image) : Statement (.snapDecode img) := by
  simp [Statement, encode, img.property]
theorem identifyDuty (x : Int) : Statement (.identifyDuty x) := by simp [Statement, encode, encodeInt]
theorem threshold (t : Byte) (s : Int) : Statement (.threshold t s) := by simp [Statement, encode, encodeInt]
theorem nextDuty (c g : Byte) (d : Duty) : Statement (.nextDuty c g d) := by simp [Statement, encode]
theorem dump : Statement .dump := by simp [Statement, encode]
theorem setduty (n : Duty) : Statement (.setduty n) := by simp [Statement, encode]
theorem auto : Statement .auto := by simp [Statement, encode]
theorem invalid : Statement .invalid := by simp [Statement, encode]
theorem polledSnapshot : Statement .polledSnapshot := by simp [Statement, encode]
theorem snapRead : Statement .snapRead := by simp [Statement, encode]
theorem tick : Statement .tick := by simp [Statement, encode]
theorem guard (s : StopSignal) : Statement (.guard s) := by simp [Statement, encode]

end Sys2Proof.Laws.OperationWord
end

