-- ==== Sys2Proof/Tests/Slice0.lean ====
section
/-! SUPPORT. Tests on small scripted states, with the results the spec's vectors give
(`spec/95_test_vectors.md`), and for every obligation with hypotheses a state that meets them. -/

namespace Sys2Proof.Tests

open Sys2Proof.Machine

/-! ## Small states -/

/-- The suggested board of `93_implementation_defined.md` G1 to G5. -/
def board : Board :=
  { ecDataPort := 0x62, ecScPort := 0x66, ibfBit := 1, obfBit := 0, ecCmdRead := 0x80, ecCmdWrite := 0x81,
    regCpuTemp := 0x07, regGpuTemp := 0xCD, regFanDuty := 0xCE, regFanRpmHi := 0xD0, regFanRpmLo := 0xD1,
    fanDutyWrAddr := 0xCE }

def cfg : Config :=
  { board := board, writeTrailingWait := true, readPolicy := .soft, autoDutyInit := 0, exitFail := 1 }

def cfgHard : Config := { cfg with readPolicy := .hard }

/-- At `T_START`, with privilege. -/
def start : State := { State.reset with cfg := cfg, priv := true }

/-- The ports are acquired. -/
def ports : State := { start with acquired := true }

/-- In the loop, at its head, the guard armed. -/
def loop : State :=
  { ports with top := .auto, cmd := .auto, phase := .lHead, run := true, armed := true, csLive := true }

/-- The run is over. -/
def ended : State := { loop with top := .exit, exit := some 0, csLive := false }

/-- Boundaries at which the EC does nothing. -/
def quiet (n : Nat) : List (List EcMove) := List.replicate n []

/-- A state whose next EC moves, one list for each step, and free bytes are given; every poll takes one free
byte. -/
def scripted (moves : List (List EcMove)) (s : State) : State :=
  { s with env := { s.env with moves := moves, bytes := List.replicate moves.length 0 } }

/-- A state in which the EC has the registers given. -/
def withRegs (regs : Mem) (s : State) : State := { s with ec := { s.ec with regs := regs } }

/-- A state whose next snapshot answer is given. -/
def answering (a : SnapAnswer) (s : State) : State :=
  { s with env := { s.env with snaps := [a], moves := quiet 4 } }

/-- A full answer; only its length counts (log 8). -/
def full : SnapAnswer := .bytes (List.replicate 256 0)

/-- The state an answer leaves. -/
def after (r : Host.Outcome State Fault Refusal) : Option State :=
  match r with
  | .next t => some t
  | .fault _ => none
  | .refused _ => none

/-- The result an operation leaves. -/
def result (i : Instr) (s : State) : Option Ret := (after (exec i s)).map State.ret

/-- The accesses an operation makes from an empty trace. -/
def accesses (i : Instr) (s : State) : Option (List Access) := (after (exec i s)).map State.trace

theorem after_eq {r : Host.Outcome State Fault Refusal} (h : (after r).isSome = true) : ∃ t, r = .next t := by
  cases r with
  | next t => exact ⟨t, rfl⟩
  | fault e => cases h
  | refused e => cases h

/-! ## Well-formedness -/

theorem test_dutyWrite_operand_too_big : (Instr.dutyWrite 2147483648).wellFormed = false := by decide
theorem test_identifyDuty_operand_too_small : (Instr.identifyDuty (-2147483649)).wellFormed = false := by decide
theorem test_threshold_operand_too_big : (Instr.threshold 0 2147483648).wellFormed = false := by decide
theorem test_dutyWrite_operand_fits : (Instr.dutyWrite (-2147483648)).wellFormed = true := by decide

/-! ## Decoding: a word of every constructor, its bytes written out from log 11 and the row order of
`spec/opcode_table.json` -/

theorem test_decode_acquire : decode [0x00] = .ok (.acquire, []) := by decide
theorem test_decode_portIn : decode [0x01, 0x00] = .ok (.portIn .data, []) := by decide
theorem test_decode_portOut : decode [0x02, 0x01, 0x81] = .ok (.portOut .sc 0x81, []) := by decide
theorem test_decode_waitfor : decode [0x03, 0x01, 0x01] = .ok (.waitfor .obf true, []) := by decide
theorem test_decode_ecWrite : decode [0x04, 0xCE, 0x66] = .ok (.ecWrite 0xCE 0x66, []) := by decide
theorem test_decode_ecRead : decode [0x05, 0x07] = .ok (.ecRead 0x07, []) := by decide
theorem test_decode_dutyWrite : decode [0x06, 0x00, 0x01, 0x00, 0x80] = .ok (.dutyWrite (-2147483392), []) := by
  decide
theorem test_decode_dutyDec : decode [0x07, 0x66] = .ok (.dutyDec 102, []) := by decide
theorem test_decode_dutyEnc : decode [0x08, 0x64] = .ok (.dutyEnc 100, []) := by decide
theorem test_decode_rpmDec : decode [0x09, 0x02, 0x1C] = .ok (.rpmDec 0x02 0x1C, []) := by decide
theorem test_decode_tempDec : decode [0x0A, 0x2D] = .ok (.tempDec 45, []) := by decide
theorem test_decode_snapDecode :
    decode (0x0B :: (List.replicate 255 0 ++ [7, 9])) =
      .ok (.snapDecode ⟨List.replicate 255 0 ++ [7], by rw [List.length_append, List.length_replicate]; rfl⟩, [9]) := by
  decide +kernel
theorem test_decode_identifyDuty : decode [0x0C, 0x11, 0, 0, 0] = .ok (.identifyDuty 17, []) := by decide
theorem test_decode_threshold : decode [0x0D, 0x55, 0x40, 0, 0, 0] = .ok (.threshold 85 64, []) := by decide
theorem test_decode_nextDuty : decode [0x0E, 0x5A, 0x00, 0x1E] = .ok (.nextDuty 90 0 30, []) := by decide
theorem test_decode_dump : decode [0x0F] = .ok (.dump, []) := by decide
theorem test_decode_setduty : decode [0x10, 0x41] = .ok (.setduty 65, []) := by decide
theorem test_decode_auto : decode [0x11] = .ok (.auto, []) := by decide
theorem test_decode_invalid : decode [0x12] = .ok (.invalid, []) := by decide
theorem test_decode_polledSnapshot : decode [0x13] = .ok (.polledSnapshot, []) := by decide
theorem test_decode_snapRead : decode [0x14] = .ok (.snapRead, []) := by decide
theorem test_decode_tick : decode [0x15] = .ok (.tick, []) := by decide
theorem test_decode_guard : decode [0x16, 0x05] = .ok (.guard .sigterm, []) := by decide

theorem test_decode_unknown : decode [0x17] = .error (.unknownOperation 0x17) := by decide
theorem test_decode_bad_port : decode [0x01, 0x02] = .error (.badOperand 0x01) := by decide
theorem test_decode_truncated : decode [0x04, 0xCE] = .error (.truncated 0x04) := by decide
theorem test_decode_empty : decode [] = .error .empty := by decide
theorem test_table_word : decodeTableWord 16 0x6407 = some (.dutyDec 0x64) := by decide +kernel
theorem test_table_word_runs :
    (after (step (start.withFetchWord 16 0x6607))).map State.ret = some (.int 40) := by decide +kernel

/-- R71: the host command. -/
theorem test_invocation_dump : decodeInvocation [] = .dump := by decide
theorem test_invocation_auto : decodeInvocation [.int (-1)] = .auto := by decide
theorem test_invocation_zero : decodeInvocation [.int 0] = .setduty 0 := by decide
theorem test_invocation_hundred : decodeInvocation [.int 100] = .setduty 100 := by decide
theorem test_invocation_too_big : decodeInvocation [.int 101] = .invalid := by decide
theorem test_invocation_text : decodeInvocation [.text] = .invalid := by decide

/-! ## Port Channel (V40) -/

theorem test_acquire : (after (exec .acquire start)).map (fun t => (t.ret, t.acquired, t.trace)) =
    some (.ok, true, []) := by decide
theorem test_acquire_denied : (after (exec .acquire { start with priv := false })).map
    (fun t => (t.ret, t.acquired)) = some (.err .permission, false) := by decide
theorem test_portIn_idle : result (.portIn .sc) (scripted [[]] ports) = some (.byte 0) := by decide
theorem test_portIn_data_clears_obf :
    (after (exec (.portIn .data) (scripted [[]] { ports with ec := { Ec.reset with obf := true, outb := 0x2D } }))).map
      (fun t => (t.ret, t.ec.obf)) = some (.byte 0x2D, false) := by decide
theorem test_portOut_sets_ibf :
    (after (exec (.portOut .sc 0x80) (scripted [[]] ports))).map (fun t => (t.ec.ibf, t.ec.inb, t.trace)) =
      some (true, 0x80, [.output .sc 0x80]) := by decide
theorem test_port_before_acquire :
    exec (.portIn .sc) start = .fault .notAcquired ∧ exec (.portOut .data 0) start = .fault .notAcquired :=
  ⟨rfl, rfl⟩

/-! ## EC Protocol Engine (V41) -/

/-- An EC whose status bytes are free, so that the script gives them (a corrupt one, R50). -/
def statuses (bs : List Byte) : State :=
  { ports with ec := { Ec.reset with corrupt := true }
               env := { ports.env with moves := List.replicate bs.length [], bytes := bs } }

/-- V41-7: only the one bit is examined. -/
theorem test_waitfor_ignores_other_bits : accesses (.waitfor .ibf false) (statuses [0xFD, 0x02, 0xFC]) =
    some [.input .sc 0xFD] := by decide
/-- V41-2, R111's example. -/
theorem test_waitfor_third_poll :
    (after (exec (.waitfor .ibf false) (statuses [0x02, 0x02, 0x00]))).map (fun t => (t.ret, t.main.pollN)) =
      some (.ok, 2) := by decide

/-- V41-10. -/
theorem test_ecWrite_prompt : accesses (.ecWrite 0x10 0x66) (scripted (promptWrite true) ports) =
    some [.input .sc 0, .output .sc 0x81, .input .sc 0, .output .data 0x10, .input .sc 0, .output .data 0x66,
          .input .sc 0] := by decide +kernel
theorem test_ecWrite_stores :
    (after (exec (.ecWrite 0xCE 0x66) (scripted (promptWrite true) ports))).map (fun t => (t.ret, t.ec.regs)) =
      some (.ok, [(0xCE, 0x66)]) := by decide +kernel
/-- V41-20. -/
theorem test_ecRead_prompt :
    accesses (.ecRead 0x07) (scripted promptRead (withRegs [(0x07, 0x2D)] ports)) =
      some [.input .sc 0, .output .sc 0x80, .input .sc 0, .output .data 0x07, .input .sc 1, .input .data 0x2D] := by
  decide +kernel
theorem test_ecRead_result :
    (after (exec (.ecRead 0x07) (scripted promptRead (withRegs [(0x07, 0x2D)] ports)))).map
      (fun t => (t.ret, t.main.resL, t.ec.obf)) = some (.byte 0x2D, 0x2D, false) := by decide +kernel
/-- The EC that produces the byte at the boundary after the hundredth poll of the OBF wait. -/
def lateAnswer : List (List EcMove) := [[], [.consume], [], []] ++ quiet 99 ++ [[.consume], [], []]
/-- R118 (b), R254: OBF has come, and the byte is a draw all the same. -/
theorem test_ecRead_late_byte_is_free :
    (after (exec (.ecRead 0x07)
      { withRegs [(0x07, 0x2D)] ports with
        env := { ports.env with moves := lateAnswer, bytes := List.replicate 102 0 ++ [0x99] } })).map
      (fun t => (t.ret, t.ec.obf, t.log)) =
    some (.byte 0x99, false, [.timeoutLogged .main { port := .sc, flag := .obf, expected := true }]) := by
  decide +kernel
/-- R50: a hard read given up at its third wait leaves the EC corrupt. -/
theorem test_ecRead_hard_third_wait :
    (after (exec (.ecRead 0x07) (scripted ([[], [.consume], [], [.take]] ++ quiet 100) { ports with cfg := cfgHard }))).map
      (fun t => (t.ret, t.ec.corrupt)) =
    some (.err (.timeout { port := .sc, flag := .obf, expected := true }), true) := by decide +kernel
/-- R16: the event of a soft timeout is a step of its own. -/
theorem test_late_event_is_a_step :
    (after (step { ports with
      top := .dump, phase := .osPoll .fanDuty,
      main := { ports.main with hs := .rWait3, late := true }, env := { ports.env with moves := quiet 1 } })).map
      (fun t => (t.log, t.trace, t.main.hs, t.main.late)) =
    some ([.timeoutLogged .main { port := .sc, flag := .obf, expected := true }], [], .rData, true) := by decide

/-- The reference responder, inside a write transaction. -/
def responder : State := { ports with ec := { Ec.reset with reference := true, ph := .wrAddr } }
/-- R52: a command inside a transaction fills its input buffer. -/
theorem test_responder_takes_the_byte :
    (after (exec (.portOut .sc 0x81) (scripted [[]] responder))).map (fun t => (t.ec.inb, t.ec.ibf, t.ec.corrupt)) =
      some (0x81, true, false) := by decide
/-- R52: it goes corrupt when it consumes that command. -/
theorem test_responder_corrupt_on_consume :
    (after (exec (.portOut .sc 0x81) (scripted [[.consume]] responder))).map (fun t => (t.ec.ibf, t.ec.corrupt)) =
      some (false, true) := by decide
/-- R52: its other status bits are 0. -/
theorem test_responder_status :
    (after (exec (.portIn .sc) { responder with
      env := { responder.env with moves := [[]], bytes := [0xFF] } })).map State.ret = some (.byte 0) := by decide
/-- R50: any other EC is corrupt from that command on. -/
theorem test_contract_corrupt_at_once :
    (after (exec (.portOut .sc 0x81)
      (scripted [[]] { ports with ec := { Ec.reset with ph := .wrAddr } }))).map (fun t => t.ec.corrupt) = some true := by
  decide
/-- V41-30. -/
theorem test_dutyWrite_sends_raw :
    (after (exec (.dutyWrite 40) (scripted (quiet 1 ++ promptWrite true) ports))).map (fun t => sentIn t.trace) =
      some [(.sc, 0x81), (.data, 0xCE), (.data, 102)] := by decide +kernel
/-- V41-35. -/
theorem test_dutyWrite_negative : (after (exec (.dutyWrite (-1)) ports)).map (fun t => (t.ret, t.trace)) =
    some (.err (.invalidArgument (-1)), []) := by decide

/-! ## Register Decoder (R130 to R140, V42) -/

theorem test_dutyDec_tie : result (.dutyDec 0x66) start = some (.int 40) := by decide
theorem test_dutyDec_top : result (.dutyDec 0xFE) start = some (.int 100) := by decide
theorem test_dutyEnc : result (.dutyEnc 17) start = some (.byte 43) := by decide
theorem test_dutyEnc_top : result (.dutyEnc 100) start = some (.byte 255) := by decide
theorem test_rpmDec : result (.rpmDec 0x02 0x1C) start = some (.int 3993) := by decide
theorem test_rpmDec_zero : result (.rpmDec 0 0) start = some (.int 0) := by decide
theorem test_tempDec_unsigned : result (.tempDec 0xFF) start = some (.int 255) := by decide
/-- R140's example. -/
theorem test_snapDecode :
    result (.snapDecode (Mem.image [(0x07, 0x3C), (0xCD, 0x32), (0xCE, 0x4C), (0xD0, 0x03), (0xD1, 0xE8)])) start =
      some (.fields { duty := 30, rpm := 2156, cpuTemp := 60, gpuTemp := 50 }) := by decide +kernel

/-! ## Thermal (V43) -/

theorem test_identifyDuty : result (.identifyDuty 17) start = some (.int 16) := by decide
theorem test_identifyDuty_kept : result (.identifyDuty 45) start = some (.int 45) := by decide
theorem test_threshold_row9 : result (.threshold 85 65) start = some (.target (.duty 65)) := by decide
theorem test_threshold_none : result (.threshold 54 16) start = some (.target .noChange) := by decide
theorem test_nextDuty_smoothed : result (.nextDuty 90 0 29) start = some (.target (.duty 48)) := by decide
theorem test_nextDuty_deescalates : result (.nextDuty 45 0 65) start = some (.target (.duty 0)) := by decide

/-! ## Control (V44) -/

/-- Five reads by the prompt EC. -/
def fiveReads : List (List EcMove) := promptRead ++ promptRead ++ promptRead ++ promptRead ++ promptRead

/-- The registers of R172's example. -/
def exampleRegs : Mem := [(0x07, 45), (0xCD, 40), (0xCE, 102), (0xD0, 2), (0xD1, 0x1C)]

/-- R172's example. -/
theorem test_polledSnapshot : result .polledSnapshot (scripted (fiveReads ++ quiet 4) (withRegs exampleRegs ports)) =
    some (.fields { duty := 40, rpm := 3993, cpuTemp := 45, gpuTemp := 40 }) := by decide +kernel
theorem test_polledSnapshot_accesses :
    (accesses .polledSnapshot (scripted (fiveReads ++ quiet 4) (withRegs exampleRegs ports))).map List.length = some 30 := by
  decide +kernel
/-- R173's example. -/
theorem test_dump : (after (exec .dump (scripted (quiet 1 ++ fiveReads ++ quiet 5) (withRegs exampleRegs start)))).map
    (fun t => (t.log, t.exit, t.top)) = some ([.dump 40 3993 45 40], some 0, .exit) := by decide +kernel
/-- V44-2. -/
theorem test_dump_denied : (after (exec .dump { start with priv := false })).map (fun t => (t.log, t.exit, t.trace)) =
    some ([.permissionDenied], some 1, []) := by decide
/-- R174's example: the dump shows the duty written. -/
theorem test_setduty : (after (exec (.setduty 65) (scripted (quiet 2 ++ promptWrite true ++ fiveReads ++ quiet 5) start))).map
    (fun t => (t.log, t.exit)) = some ([.dump 65 0 0 0], some 0) := by decide +kernel
theorem test_auto : (after (exec .auto start)).map (fun t => (t.run, t.armed, t.csLive, t.phase, t.trace)) =
    some (true, true, true, .lHead, []) := by decide
/-- V44-3. -/
theorem test_invalid : (after (exec .invalid { start with priv := false })).map
    (fun t => (t.log, t.exit, t.acquired)) = some ([.usageError], some 1, false) := by decide
theorem test_snapRead_short : result .snapRead (answering (.bytes []) loop) = some (.err (.sizeMismatch 0)) := by
  decide
theorem test_snapRead_open : result .snapRead (answering .openFail loop) = some (.err (.io true)) := by decide

/-- V44-6 in the loop: cpu 70, gpu 40, duty raw 20, then the prompt EC takes the write of 19. -/
def tickState : State :=
  { withRegs [(0x07, 70), (0xCD, 40), (0xCE, 20)] loop with
    cs := { cpuTemp := 60, gpuTemp := 40, curDuty := 8, autoDuty := 8 }
    env := { loop.env with snaps := [full], moves := quiet 5 ++ promptWrite true ++ quiet 2, bytes := List.replicate 7 0,
                           times := [{ minute := 1, second := 2 }] } }

/-- R45: the EC has its own steps after a step that touches no port. -/
theorem test_ec_moves_after_sleep :
    (after (step { loop with phase := .lSleep, guardTaken := true, g := .done,
                             env := { loop.env with moves := [[.sense 7 9]] } })).map
      (fun t => (t.phase, t.ec.regs)) = some (.lHead, [(7, 9)]) := by decide
/-- R16: each decode of a polled snapshot is a step. -/
theorem test_decode_is_a_step :
    (after (step { ports with top := .dump, phase := .osDecode .duty, raws := ⟨102, 2, 0x1C, 45, 40⟩,
                              env := { ports.env with moves := [[]] } })).map
      (fun t => (t.phase, t.fields.duty, t.fields.rpm)) = some (.osDecode .rpm, 40, 0) := by decide
/-- V44-15. -/
theorem test_tick : (after (exec .tick tickState)).map (fun t => (sentIn t.trace, t.cs, t.log)) =
    some ([(.sc, 0x81), (.data, 0xCE), (.data, 48)],
          { cpuTemp := 70, gpuTemp := 40, curDuty := 8, autoDuty := 19 },
          [.transition 70 40 19 { minute := 1, second := 2 }]) := by decide +kernel
/-- V44-4: a step of `L_SNAP`, and the step that logs its failure (log 13). -/
theorem test_tick_readError :
    (after (exec .tick (answering .readError { loop with cs := tickState.cs }))).map
      (fun t => (t.log, t.cs, t.trace)) = some ([.snapReadError], tickState.cs, []) := by decide

/-! ## Shutdown Guard (V60) -/

/-- V60-2. -/
theorem test_guard : (after (exec (.guard .sigterm) (scripted (quiet 2 ++ promptWrite true) loop))).map
    (fun t => (t.run, t.g, sentIn t.trace)) =
      some (false, .done, [(.sc, 0x81), (.data, 0xCE), (.data, 102)]) := by decide +kernel
/-- V60-1. -/
theorem test_guard_unarmed : exec (.guard .sigint) start = .next { start with ret := .none } := rfl

/-- V60-5: the exit wins. -/
theorem test_exit_wins :
    (after (step { loop with phase := .lSnapFailed .openFail
                             env := { loop.env with stops := [some .sighup] } })).map
      (fun t => (t.exit, t.g, t.log)) = some (some 1, .idle, [.snapOpenError]) := by decide
/-- R45: without a trailing wait the EC consumes the guard's data byte after the last write, before anything
else happens. -/
theorem test_guard_no_trailing_wait :
    (after (exec (.guard .sigterm) (scripted (quiet 2 ++ promptWrite false)
      { loop with cfg := { cfg with writeTrailingWait := false } }))).map
      (fun t => (t.g, t.ec.ibf, t.ec.regs)) = some (.done, false, [(0xCE, 102)]) := by decide +kernel
/-- R50: a guard that times out before it sends anything, with a write of MAIN half sent, leaves the EC
corrupt. -/
theorem test_guard_cuts_off_main :
    (after (exec (.guard .sigterm) (scripted (quiet 103)
      { loop with main := { loop.main with hs := .wWait2 }, ec := { Ec.reset with ibf := true, inbCmd := true } }))).map
      (fun t => (sentIn t.trace, t.exit, t.ec.corrupt)) = some ([], some 1, true) := by decide +kernel
/-- A stop request during the sleep enters the guard. -/
theorem test_guard_enters :
    (after (step { loop with phase := .lSleep, env := { loop.env with stops := [some .sighup] } })).map
      (fun t => (t.g, t.run, t.phase)) = some (.active .write, false, .lSleep) := by decide

/-! ## Witnesses: states and operands that meet the hypotheses of the obligations -/

/-- Every premise 'before `EXIT`, ports acquired'. -/
theorem witness_acquired : ports.top ≠ .exit ∧ ports.acquired = true ∧ ports.cfg.ok = true := by decide
theorem witness_before_exit : start.top ≠ .exit := by decide

theorem witness_OperationWordsRoundTrip :
    (Instr.dutyWrite (-2147483648)).wellFormed = true ∧ (Instr.threshold 255 2147483647).wellFormed = true := by
  decide
theorem witness_HostCommandDecoding :
    [Arg.int 101] ≠ [] ∧ [Arg.int 101] ≠ [.int (-1)] ∧ ∀ n : Duty, [Arg.int 101] ≠ [.int n.val] := by decide
theorem witness_StepRunsIssuedOperation :
    start.top ≠ .exit ∧ ({ start with issue := some [10, 45] }).issue = some [10, 45] ∧
    decode [10, 45] = .ok (.tempDec 45, []) ∧ decode [23] = .error (.unknownOperation 23) ∧
    decodeTableWord 16 0x2D0A = some (.tempDec 45) := by decide +kernel
theorem witness_StartAdmitsTheHostCommand :
    start.top = .start ∧ start.issue = none ∧ start.g = .idle ∧ start.armed = false ∧
    decodeInvocation [.int 101] = .invalid ∧ ({ start with priv := false }).priv = false ∧ start.priv = true ∧
    decodeInvocation start.invocation = .dump ∧ decodeInvocation [.int 0] = .setduty 0 ∧
    decodeInvocation [.int 100] = .setduty 100 ∧ decodeInvocation [.int (-1)] = .auto := by decide

theorem reset_wf : Ec.reset.regs.wf = true := by decide

/-- The invariant holds in the loop. -/
theorem witness_Inv_loop : Inv loop := by constructor <;> simp [loop, ports, start, State.reset, Latches.reset, reset_wf, readState]
/-- The loop after its guard is done. -/
def guarded : State := { loop with run := false, guardTaken := true, g := .done }
theorem witness_Inv_guarded : Inv guarded := by
  constructor <;> simp [guarded, loop, ports, start, State.reset, Latches.reset, reset_wf, readState]
theorem witness_step_guarded : ∃ t, step guarded = .next t := after_eq (by decide)
theorem witness_ExitIsWrittenOnceAndLast : ended.top = .exit := by decide
theorem witness_LoopEndsAtItsHead :
    guarded.top ≠ .exit ∧ guarded.run = false ∧ guarded.issue = none ∧ guarded.top = .auto ∧
    guarded.armed = true ∧ guarded.phase = .lHead ∧ ∀ pos, guarded.g ≠ .active pos :=
  ⟨by decide, rfl, rfl, rfl, rfl, rfl, fun _ h => by cases h⟩
theorem witness_AcquireNeedsPrivilege :
    start.top ≠ .exit ∧ start.priv = true ∧ ({ start with priv := false }).priv = false := by decide
theorem witness_PortBeforeAcquireFaults : start.top ≠ .exit ∧ start.acquired = false ∧ loop.issue = none := by
  decide

/-- The data port full, empty, and of a corrupt EC. -/
theorem witness_PortInReadsTheData :
    ({ ports with ec := { Ec.reset with obf := true } }).ec.obf = true ∧
    ({ ports with ec := { Ec.reset with obf := true } }).ec.corrupt = false ∧ ports.ec.obf = false ∧
    ({ ports with ec := { Ec.reset with corrupt := true } }).ec.corrupt = true := by decide
/-- A byte taken, by any EC outside a transaction and by the responder inside one, and the two ways to
corrupt it. -/
theorem witness_PortOutGivesTheByteToTheEc :
    ports.ec.ibf = false ∧ ports.ec.corrupt = false ∧ ports.ec.ph = .idle ∧
    responder.ec.ibf = false ∧ responder.ec.reference = true ∧ responder.ec.ph ≠ .idle ∧
    ({ ports with ec := { Ec.reset with ibf := true } }).ec.ibf = true ∧
    ({ ports with ec := { Ec.reset with ph := .wrAddr } }).ec.reference = false := by decide
theorem witness_IbfFollowsTheByte :
    Ec.reset.ibf = false ∧ ({ Ec.reset with ibf := true }).ibf = true ∧
    ({ Ec.reset with ibf := true }).corrupt = false := by decide
theorem witness_CorruptionIsForEverAndFree :
    ({ Ec.reset with ibf := true }).ibf = true ∧ ({ Ec.reset with ph := .wrAddr }).ph ≠ .idle ∧
    Ec.reset.reference = false ∧
    ({ ports with ec := { Ec.reset with corrupt := true } }).ec.corrupt = true := by decide
theorem witness_ConsumedDataByteIsStored :
    let e : Ec := { Ec.reset with ibf := true, ph := .wrData 0xCE }
    e.regs.wf = true ∧ e.ibf = true ∧ e.corrupt = false ∧ e.inbCmd = false ∧ e.ph = .wrData 0xCE := by decide
theorem witness_RegistersChangeOnlyByTheEc :
    (∀ ms ∈ (scripted [[.take, .produce], [.drop]] ports).env.moves, ∀ m ∈ ms, silentMove m = true) ∧
    ((after (exec (.portIn .sc) (scripted [[.take, .produce], [.drop]] ports))).map
      (fun t => (t.env.moves, t.ec.corrupt))) = some ([[.drop]], false) ∧
    ((after (step (scripted [[.take], [.drop]] { loop with phase := .lSnap, env := { loop.env with snaps := [.openFail] },
                                                            guardTaken := true, g := .done }))).map
      (fun t => (t.env.moves, t.ec.corrupt))) = some ([[.drop]], false) := by decide

/-- A wait that succeeds, and one that times out. -/
theorem witness_WaitforPollsAtMostHundredTimes :
    result (.waitfor .ibf false) (scripted (quiet 1) ports) = some .ok ∧
    (after (exec (.waitfor .obf true) (scripted (quiet 100) ports))).map (fun t => (t.ret, t.main.pollN)) =
      some (.err (.timeout { port := .sc, flag := .obf, expected := true }), 100) := by decide +kernel

theorem witness_EcWriteCounts_ok : ∃ t, exec (.ecWrite 1 2) (scripted (promptWrite true) ports) = .next t :=
  after_eq (by decide +kernel)
/-- A dead EC: one byte sent, and the EC is left corrupt. -/
theorem witness_EcWriteCounts_midway :
    (after (exec (.ecWrite 1 2) (scripted (List.replicate 102 []) ports))).map
      (fun t => ((sentIn t.trace).length, t.ec.corrupt)) = some (1, true) ∧ ports.ec.reference = false := by
  decide +kernel
theorem witness_PromptEcTakesTheWrite :
    let s := scripted (promptWrite true ++ [[.consume]]) ports
    s.cfg.board.ecCmdRead ≠ s.cfg.board.ecCmdWrite ∧ EcIdle s.ec ∧
    s.ec.regs.wf = true ∧ s.env.moves = promptWrite true ++ [[.consume]] :=
  ⟨by decide, ⟨rfl, rfl, rfl, rfl⟩, by decide, rfl⟩
/-- The same without the trailing wait. -/
theorem witness_PromptEcTakesTheWrite_no_wait :
    let s := scripted (promptWrite false ++ [[]]) { ports with cfg := { cfg with writeTrailingWait := false } }
    s.env.moves = promptWrite s.cfg.writeTrailingWait ++ [[]] := rfl
theorem witness_PromptEcAnswersTheRead :
    let s := scripted (promptRead ++ [[]]) ports
    EcIdle s.ec ∧ s.env.moves = promptRead ++ [[]] := ⟨⟨rfl, rfl, rfl, rfl⟩, rfl⟩
theorem witness_SoftReadAlwaysAnswers :
    ports.cfg.readPolicy = .soft ∧
    ({ ports with main := { ports.main with hs := .rData, late := true } }).main.late = true := by decide
/-- A hard read given up at its second wait, one byte sent. -/
theorem witness_HardReadIsFailFast :
    ({ ports with cfg := cfgHard }).cfg.readPolicy = .hard ∧
    (after (exec (.ecRead 7) (scripted (quiet 102) { ports with cfg := cfgHard }))).map
      (fun t => ((sentIn t.trace).length, t.ec.corrupt)) = some (1, true) := by decide +kernel
theorem witness_DutyWriteChecksItsRange : (-1 : Int) < 0 ∧ (100 : Int) < 101 := by decide
theorem witness_RpmDecOrder :
    rawCombined 0 1 > 0 ∧ rawCombined 0 1 ≤ rawCombined 255 255 ∧ rawCombined 5 0xCB < rawCombined 5 0xCC ∧
    rawCombined 5 0xCC ≤ 1484 := by decide
theorem witness_IdentifyDutySnapsWithinOne :
    (16 : Int) ∈ Config.canon ∧ ((17 : Int) - 16).natAbs ≤ 1 ∧ ((15 : Int) - 16).natAbs ≤ 1 ∧
    (∀ level ∈ Config.canon, 1 < ((18 : Int) - level).natAbs) ∧
    (∀ level ∈ Config.canon, 1 < ((102 : Int) - level).natAbs) := by decide
/-- `NoChange`; an escalation that is smoothed, one that is not, and a de-escalation. -/
theorem witness_NextDutySmoothsEscalations :
    threshold (max 54 0 : Nat) (identifyDuty 0) = .noChange ∧
    threshold (max 90 0 : Nat) (identifyDuty 30) = .duty 65 ∧ (65 : Int) - (identifyDuty 30 + (65 - 30) / 2) > 2 ∧
    threshold (max 90 0 : Nat) (identifyDuty 62) = .duty 65 ∧ (65 : Int) - (identifyDuty 62 + (65 - 62) / 2) ≤ 2 ∧
    threshold (max 45 0 : Nat) (identifyDuty 65) = .duty 0 := by decide
theorem witness_NextDutyRangeAndProgress :
    threshold (maxTemp 90 0).toNat (identifyDuty ((30 : Duty).val : Int)) = .duty 65 ∧
    nextDuty 90 0 30 = .duty 47 ∧ (30 : Duty) < 65 ∧
    threshold (maxTemp 45 0).toNat (identifyDuty ((65 : Duty).val : Int)) = .duty 0 ∧ nextDuty 45 0 65 = .duty 0 := by
  decide
theorem witness_NoPrivilegeEndsTheRun :
    ({ start with priv := false }).top ≠ .exit ∧ ({ start with priv := false }).priv = false ∧
    result .acquire { start with priv := false } = some (.err .permission) ∧
    (after (step { start with priv := false })).map (fun t => t.log) = some (start.log ++ [.permissionDenied]) := by
  decide
theorem witness_PolledSnapshot_hard :
    (after (exec .polledSnapshot (scripted (List.replicate 102 []) { ports with cfg := cfgHard }))).map
      (fun t => (t.ret, t.log)) =
    some (.err (.timeout { port := .sc, flag := .ibf, expected := false }), []) := by decide +kernel
/-- `DUMP` and `SETDUTY` under `hard` with a dead EC: the first wait after a byte times out. -/
theorem witness_DumpReportsAndExits_hard :
    (after (exec .dump (scripted (quiet 104) { start with cfg := cfgHard }))).map (fun t => (sentIn t.trace, t.exit)) =
      some ([(.sc, 0x80)], some 1) := by decide +kernel
/-- `SETDUTY` whose write fails, and one whose first read does. -/
theorem witness_SetdutyWritesThenReports_failed :
    (after (exec (.setduty 65) (scripted (quiet 105) start))).map (fun t => (sentIn t.trace, t.exit)) =
      some ([(.sc, 0x81)], some 1) ∧
    (after (exec (.setduty 65) (scripted (quiet 2 ++ promptWrite true ++ quiet 104) { start with cfg := cfgHard }))).map
      (fun t => (sentIn t.trace, t.exit)) =
      some ([(.sc, 0x81), (.data, 0xCE), (.data, 165), (.sc, 0x80)], some 1) := by decide +kernel
theorem witness_SnapReadByAnswer :
    nextSnap (answering .openFail loop) = .openFail ∧ nextSnap (answering .readError loop) = .readError ∧
    nextSnap (answering (.bytes [1]) loop) = .bytes [1] ∧ ([1] : List Byte).length ≠ 256 ∧
    nextSnap (answering full loop) = full ∧ (List.replicate 256 (0 : Byte)).length = 256 :=
  ⟨rfl, rfl, rfl, by decide, rfl, List.length_replicate⟩
theorem witness_SoftSnapshotFailureSkipsTheTick :
    loop.top ≠ .exit ∧ loop.run = true ∧ nextSnap (ecAdvance (answering .readError loop)) = .readError ∧
    nextSnap (ecAdvance (answering (.bytes []) loop)) = .bytes [] ∧ ([] : List Byte).length ≠ 256 :=
  ⟨by decide, rfl, rfl, rfl, by decide⟩
theorem witness_OpenFailureEndsTheRun : nextSnap (ecAdvance (answering .openFail loop)) = .openFail := rfl

/-- A tick in the loop, with the two registers and the last auto-selected duty given. -/
def tickWith (cpu raw : Byte) (auto : Int) : State :=
  { answering full (withRegs (Mem.write [(0x07, cpu)] 0xCE raw) loop) with
    cs := { loop.cs with autoDuty := auto }
    env := { loop.env with snaps := [full], moves := quiet 5 ++ promptWrite true ++ quiet 2,
                           bytes := List.replicate 7 0, times := [{ minute := 1, second := 2 }] } }
/-- What a tick sends and the duty it leaves as the last auto-selected one. -/
def ticked (s : State) : Option (List (Port × Byte) × Int) :=
  (after (exec .tick s)).map fun t => (sentIn t.trace, t.cs.autoDuty)
theorem witness_TickDecidesAndWrites :
    tickState.top ≠ .exit ∧ tickState.acquired = true ∧ tickState.run = true := by decide
theorem witness_Tick_answer : nextSnap (ecAdvance tickState) = full ∧ nextSnap (ecAdvance (tickWith 90 165 65)) = full :=
  ⟨rfl, rfl⟩
/-- `NoChange`. -/
theorem witness_Tick_noChange : ticked (tickWith 90 165 65) = some ([], 65) := by decide +kernel
/-- A duty that needs no write, not 0 and 0. -/
theorem witness_Tick_kept : ticked (tickWith 56 43 17) = some ([], 17) ∧ ticked (tickWith 45 0 0) = some ([], 0) := by
  decide +kernel
/-- The write of 0 that stops a fan, and a new duty. -/
theorem witness_Tick_written :
    ticked (tickWith 45 165 0) = some ([(.sc, 0x81), (.data, 0xCE), (.data, 0)], 0) ∧
    ticked (tickWith 70 20 8) = some ([(.sc, 0x81), (.data, 0xCE), (.data, 48)], 19) := by decide +kernel
/-- The guard's write times out: a dead EC. -/
theorem witness_GuardWritesTheSafeDuty_failed :
    (after (exec (.guard .sigint) (scripted (quiet 105) loop))).map (fun t => (t.exit, sentIn t.trace)) =
      some (some 1, [(.sc, 0x81)]) := by decide +kernel
theorem witness_GuardWritesTheSafeDuty :
    loop.top ≠ .exit ∧ loop.acquired = true ∧ loop.armed = true ∧ loop.guardTaken = false := by decide
theorem witness_OtherStopRequestsHaveNoEffect :
    start.armed = false ∧ guarded.top ≠ .exit ∧ guarded.guardTaken = true := by decide
/-- A boundary at which the guard enters, and one at which the exit wins. -/
theorem witness_GuardEntersAtAnyBoundary :
    loop.issue = none ∧ loop.g = .idle ∧ writesExit (mainStep { loop with phase := .lSleep }) = false ∧
    writesExit (mainStep { loop with phase := .lSnapFailed .openFail }) = true := by decide
/-- The guard about to write, and the guard whose write has failed. -/
def guarding (pos : GuardPos) : State := { loop with g := .active pos, guardTaken := true, run := false }
theorem witness_GuardFreezesMain :
    (guarding .write).g = .active .write ∧ (∃ t, step (guarding .write) = .next t) ∧
    ∃ t, step (guarding (.failed { port := .sc, flag := .ibf, expected := false })) = .next t :=
  ⟨rfl, after_eq (by decide), after_eq (by decide)⟩
theorem witness_Inv_guarding : Inv (guarding .write) := by
  constructor <;> simp [guarding, loop, ports, start, State.reset, Latches.reset, reset_wf, readState]
theorem witness_StartupStepsRefineTheCommand :
    start.top = .start ∧ start.issue = none ∧ start.g = .idle ∧ start.armed = false ∧ start.main.hs = .idle := by
  decide
theorem witness_GuardStepsRefineTheHandler :
    loop.top ≠ .exit ∧ loop.issue = none ∧ loop.acquired = true ∧ loop.armed = true ∧ loop.guardTaken = false ∧
    loop.guard.hs = .idle := by decide
theorem witness_LoopStepsRefineTick :
    loop.top = .auto ∧ loop.phase = .lHead ∧ loop.main.hs = .idle ∧ loop.acquired = true := by decide

end Sys2Proof.Tests
end

section
/-! # The EC Protocol Engine: what an answer says of the state after it

The laws of `Laws/Port.lean` and `Laws/Handshake.lean` give an answer from an acquired machine. Here they are
turned round: an operation that answers came from an acquired machine, or made no access, and in either case
changed nothing but its context's latches, the EC, the inputs, the trace and the log. -/

namespace Sys2Proof.Machine

/-! ## Before `ACQUIRE` every access is the fault of R104 -/

theorem pollOnce_fault (ctx : Ctx) (f : Flag) (e m : Bool) (s : State) (h : s.acquired = false) :
    pollOnce ctx f e m s = .fault .notAcquired := by
  rw [pollOnce, portIn_fault .sc s h, andThen_fault]

theorem waitfor_fault (ctx : Ctx) (f : Flag) (e m : Bool) (s : State) (h : s.acquired = false) :
    waitfor ctx f e m s = .fault .notAcquired := by
  have h0 : (setPollN ctx 0 s).acquired = false := by simp [setPollN, h]
  rw [waitfor, Config.pollLimit, pollUpTo, pollOnce_fault _ _ _ _ _ h0, andThen_fault]

theorem ecWrite_fault (ctx : Ctx) (a v : Byte) (s : State) (h : s.acquired = false) :
    ecWrite ctx a v s = .fault .notAcquired := by
  have h0 : (startWrite ctx .idle a v s).acquired = false := by simp [startWrite, h]
  rw [ecWrite, waitfor_fault _ _ _ _ _ h0, orReturn, andThen_fault]

theorem ecRead_fault (ctx : Ctx) (a : Byte) (s : State) (h : s.acquired = false) :
    ecRead ctx a s = .fault .notAcquired := by
  have h0 : (startRead ctx .idle a s).acquired = false := by simp [startRead, h]
  rw [ecRead, readWait, waitfor_fault _ _ _ _ _ h0, andThen_fault, orReturn, andThen_fault]

/-- An operation that faults before `ACQUIRE` and answers was issued after it. -/
theorem acquired_of_next {α : Type} {s : State} {r : Res α} {x : α × State}
    (hfault : s.acquired = false → r = .fault .notAcquired) (h : r = .next x) : s.acquired = true := by
  cases ha : s.acquired with
  | true => rfl
  | false => rw [hfault ha] at h; cases h

/-! ## Frames of the accesses and the whole operations -/

theorem readPort_frame {p : Port} {d : Bool} {s t : State} {b : Byte} (h : readPort p d s = .next (b, t)) :
    PortFrame s t := by
  obtain ⟨b', t', ht', hf, -⟩ := readPort_next p d s (acquired_of_next (readPort_fault p d s) h)
  rw [ht'] at h
  cases h
  exact hf

theorem portOut_frame {p : Port} {v : Byte} {s t : State} {u : Unit} (h : portOut p v s = .next (u, t)) :
    PortFrame s t := by
  obtain ⟨t', ht', hf, -⟩ := portOut_next p v s (acquired_of_next (portOut_fault p v s) h)
  rw [ht'] at h
  cases h
  exact hf

theorem send_frame {p : Port} {v : Byte} {s t : State} {u : Unit} (h : send p v s = .next (u, t)) :
    PortFrame s t := by
  obtain ⟨w, hw, rfl⟩ := withTurn_eq_next h
  exact (portOut_frame hw).trans (ecAdvance_frame w)

theorem pollOnce_frame {ctx : Ctx} {f : Flag} {e m : Bool} {s t : State} {r : Poll}
    (h : pollOnce ctx f e m s = .next (r, t)) :
    EngineFrame ctx s t ∧ t.log = s.log ∧ (latches ctx t).hs = (latches ctx s).hs := by
  obtain ⟨r', b, t', ht', hf, hlog, -, -, hcase⟩ :=
    pollOnce_next ctx f e m s (acquired_of_next (pollOnce_fault ctx f e m s) h)
  rw [ht'] at h
  cases h
  refine ⟨hf, hlog, ?_⟩
  rcases hcase with ⟨-, -, hl⟩ | ⟨-, hl, -⟩ <;> rw [hl]

theorem waitfor_frame {ctx : Ctx} {f : Flag} {e m : Bool} {s t : State} {r : Except TimeoutInfo Unit}
    (h : waitfor ctx f e m s = .next (r, t)) : EngineFrame ctx s t := by
  obtain ⟨r', tr, t', ht', hf, -⟩ := waitfor_next ctx f e m s (acquired_of_next (waitfor_fault ctx f e m s) h)
  rw [ht'] at h
  cases h
  exact hf

/-- A write ends with its context's sequencer idle. -/
theorem ecWrite_frame {ctx : Ctx} {a v : Byte} {s t : State} {r : Except TimeoutInfo Unit}
    (h : ecWrite ctx a v s = .next (r, t)) : EngineFrame ctx s t ∧ (latches ctx t).hs = .idle := by
  obtain ⟨r', tr, t', ht', hf, -, -, -, -, hl⟩ :=
    ecWrite_next ctx a v s (acquired_of_next (ecWrite_fault ctx a v s) h)
  rw [ht'] at h
  cases h
  exact ⟨hf, by rw [hl]⟩

/-- A read ends with its context's sequencer idle and no timeout left over. -/
theorem ecRead_frame {ctx : Ctx} {a : Byte} {s t : State} {r : Except TimeoutInfo Byte}
    (h : ecRead ctx a s = .next (r, t)) :
    EngineFrame ctx s t ∧ (latches ctx t).hs = .idle ∧ (latches ctx t).late = false := by
  obtain ⟨r', b, tr, evs, t', ht', hf, -, -, -, -, -, hl⟩ :=
    ecRead_next ctx a s (acquired_of_next (ecRead_fault ctx a s) h)
  rw [ht'] at h
  cases h
  exact ⟨hf, by rw [hl], by rw [hl]⟩

/-! ## The handshake tables -/

theorem goto_engine (ctx : Ctx) (hs : Hs) (s : State) : EngineFrame ctx s (goto ctx hs s) :=
  setLatches_engine ctx _ s

@[simp] theorem goto_log (ctx : Ctx) (hs : Hs) (s : State) : (goto ctx hs s).log = s.log := by simp [goto]

@[simp] theorem goto_hs (ctx : Ctx) (hs : Hs) (s : State) : (latches ctx (goto ctx hs s)).hs = hs := by
  simp [goto]

/-- What a step of a handshake does outside the EC: it keeps to its context, and a write logs nothing and
stays a write (R114). -/
def HandshakeFrame (ctx : Ctx) (s t : State) : Prop :=
  EngineFrame ctx s t ∧
  (readState (latches ctx s).hs = false → t.log = s.log ∧ readState (latches ctx t).hs = false)

theorem writeWaitStep_frame {ctx : Ctx} {after : Hs} {m : Bool} {s t : State} {p : Progress}
    (hafter : readState after = false) (h : writeWaitStep ctx after m s = .next (p, t)) :
    HandshakeFrame ctx s t := by
  obtain ⟨r, u, hu, hk⟩ := andThen_eq_next h
  obtain ⟨hf, hlog, hhs⟩ := pollOnce_frame hu
  cases r <;> cases hk
  case hit => exact ⟨hf.trans (goto_engine _ _ _), fun _ => by simp [hlog, hafter]⟩
  case miss => exact ⟨hf, fun hr => ⟨hlog, by rw [hhs]; exact hr⟩⟩
  case timeout => exact ⟨hf.trans (goto_engine _ _ _), fun _ => by simp [hlog, readState]⟩

theorem sendStep_frame {ctx : Ctx} {q : Port} {v : Byte} {after : Hs} {s t : State} {p : Progress}
    (hafter : readState (latches ctx s).hs = false → readState after = false)
    (h : sendStep ctx q v after s = .next (p, t)) : HandshakeFrame ctx s t := by
  obtain ⟨r, u, hu, hk⟩ := andThen_eq_next h
  have hf := send_frame hu
  have hlog : u.log = s.log := by rw [hf]
  cases hk
  exact ⟨(hf.engine ctx).trans (goto_engine _ _ _), fun hr => by simp [hlog, hafter hr]⟩

theorem readWaitStep_frame {ctx : Ctx} {f : Flag} {e : Bool} {after : Hs} {m : Bool} {s t : State}
    {p : Progress} (h : readWaitStep ctx f e after m s = .next (p, t)) : EngineFrame ctx s t := by
  unfold readWaitStep at h
  split at h
  · cases h
    exact ((emit_engine ctx _ s).trans ((ecAdvance_frame _).engine ctx)).trans (goto_engine _ _ _)
  · obtain ⟨r, u, hu, hk⟩ := andThen_eq_next h
    obtain ⟨hf, -⟩ := pollOnce_frame hu
    cases r
    case hit => cases hk; exact hf.trans (goto_engine _ _ _)
    case miss => cases hk; exact hf
    case timeout =>
      dsimp only at hk
      split at hk <;> cases hk
      · exact hf.trans (setLatches_engine ctx _ u)
      · exact hf.trans (goto_engine _ _ _)

theorem dataStep_frame {ctx : Ctx} {s t : State} {p : Progress} (h : dataStep ctx s = .next (p, t)) :
    EngineFrame ctx s t := by
  obtain ⟨b, u, hu, hk⟩ := andThen_eq_next h
  obtain ⟨w, hw, rfl⟩ := withTurn_eq_next hu
  cases hk
  exact ((((readPort_frame hw).trans (ecAdvance_frame w)).engine ctx).trans
    (setLatches_engine ctx _ _)).trans (goto_engine _ _ _)

theorem handshakeStep_frame {ctx : Ctx} {s t : State} {p : Progress}
    (h : handshakeStep ctx s = .next (p, t)) : HandshakeFrame ctx s t := by
  have reading : ∀ {hs : Hs}, (latches ctx s).hs = hs → readState hs = true → EngineFrame ctx s t →
      HandshakeFrame ctx s t := fun he hr hf => ⟨hf, fun hn => by rw [he, hr] at hn; cases hn⟩
  cases he : (latches ctx s).hs <;> simp only [handshakeStep, he] at h
  case idle => cases h; exact ⟨.refl _ _, fun hr => ⟨rfl, hr⟩⟩
  case wWait1 | wWait2 | wWait3 | wWait4 => exact writeWaitStep_frame rfl h
  case wCmd | wAddr => exact sendStep_frame (fun _ => rfl) h
  case wData => exact sendStep_frame (fun _ => by split <;> rfl) h
  case rCmd | rAddr => exact sendStep_frame (fun hr => by rw [he] at hr; cases hr) h
  case rWait1 | rWait2 | rWait3 => exact reading he rfl (readWaitStep_frame h)
  case rData => exact reading he rfl (dataStep_frame h)

/-- The engine keeps the guard's position. -/
theorem EngineFrame.g_kept {ctx : Ctx} {s t : State} (h : EngineFrame ctx s t) : t.g = s.g := by
  obtain ⟨-, -, -, -, -, -, -, hg, -⟩ := h.kept
  exact hg

/-- MAIN's handshakes do not touch GUARD's latches (R221). -/
theorem EngineFrame.guard_kept {s t : State} (h : EngineFrame .main s t) : t.guard = s.guard := by
  rw [h]; rfl

end Sys2Proof.Machine
end

section
/-! # What a step can do, said once

Every step of the machine and every operation is a finite sequence of the acts below. An invariant is then
proved of the acts, one case for each, and holds of every step (`step_acts`, `Acts.lift`). -/

namespace Sys2Proof.Machine

/-! ## The acts -/

/-- What the EC Protocol Engine and the EC's own steps do to the state. -/
inductive EngineAct : State → State → Prop
  | turn (s : State) : EngineAct s (ecAdvance s)
  | emit (e : Event) (s : State) : EngineAct s (emit e s)
  | giveUp (m : Bool) (s : State) : EngineAct s (giveUp m s)
  | readPort {p : Port} {d : Bool} {s t : State} {b : Byte} (h : readPort p d s = .next (b, t)) : EngineAct s t
  | portOut {p : Port} {v : Byte} {s t : State} {u : Unit} (h : portOut p v s = .next (u, t)) : EngineAct s t
  | waitfor {f : Flag} {e m : Bool} {s t : State} {r : Except TimeoutInfo Unit}
      (h : waitfor .main f e m s = .next (r, t)) : EngineAct s t
  | ecWrite {ctx : Ctx} {a v : Byte} {s t : State} {r : Except TimeoutInfo Unit}
      (h : ecWrite ctx a v s = .next (r, t)) : EngineAct s t
  | ecRead {a : Byte} {s t : State} {r : Except TimeoutInfo Byte}
      (h : ecRead .main a s = .next (r, t)) : EngineAct s t
  | handshake {ctx : Ctx} {s t : State} {p : Progress} (h : handshakeStep ctx s = .next (p, t)) : EngineAct s t
  | beginWrite (ctx : Ctx) (a v : Byte) (s : State) : EngineAct s (beginWrite ctx a v s)
  | beginRead (a : Byte) (s : State) : EngineAct s (beginRead .main a s)

/-- Nothing differs but registers that no other part of the machine is governed by, and the inputs used up;
the EC makes no move of its own. -/
def DataFrame (s t : State) : Prop :=
  t = { s with issue := t.issue, phase := t.phase, cs := t.cs, pending := t.pending, snap := t.snap,
               fields := t.fields, raws := t.raws, ret := t.ret, env := t.env } ∧
  t.env.moves = s.env.moves

/-- The acts of the machine, each with the condition under which it is taken. -/
inductive Act : State → State → Prop
  | engine {s t : State} (h : EngineAct s t) : Act s t
  | data {s t : State} (h : DataFrame s t) : Act s t
  | acquire {s : State} (h : s.priv = true) : Act s { s with acquired := true }
  | enterMode {c : HostCommand} {s : State} (hc : c ≠ .invalid) (ha : s.acquired = true) (ht : s.top ≠ .exit) :
      Act s { s with cmd := c, top := (modeOf c).1, phase := (modeOf c).2 }
  | enterLoop {s : State} (hs : s.top ≠ .start) (ht : s.top ≠ .exit) : Act s (enterLoop s)
  | writeExit {code : Nat} {s : State} (h : code = 0 ∨ code = s.cfg.exitFail) : Act s (writeExit code s)
  | enterGuard {s : State} (h : stopAcceptable s = true) : Act s (enterGuard s)
  | clearRun {s : State} (h : s.g ≠ .idle) : Act s (clearRunStep s)
  | moveGuard {s : State} (g : GuardState) (h : s.g ≠ .idle) (hg : g ≠ .idle) : Act s { s with g := g }

/-- Finitely many acts. -/
abbrev Acts : State → State → Prop := Relation.ReflTransGen Act

/-- What a reflexive and transitive relation keeps over every act it keeps over every sequence of them. -/
theorem Acts.lift {R : State → State → Prop} (refl : ∀ s, R s s)
    (trans : ∀ {s t u}, R s t → R t u → R s u) (act : ∀ {s t}, Act s t → R s t) {s t : State}
    (h : Acts s t) : R s t := by
  induction h with
  | refl => exact refl s
  | tail _ ha ih => exact trans ih (act ha)

/-- What the primitives of a transaction keep, every act of the engine keeps. -/
theorem EngineClosed.act {R : State → State → Prop} (hR : EngineClosed R) {s t : State} (h : EngineAct s t) :
    R s t := by
  cases h with
  | turn => exact hR.turn s
  | emit e => exact hR.emit e s
  | giveUp m => exact hR.giveUp m s
  | readPort h => exact hR.readPort h
  | portOut h => exact hR.portOut h
  | waitfor h => exact hR.waitfor _ _ _ _ s _ _ h
  | ecWrite h => exact hR.ecWrite _ _ _ s _ _ h
  | ecRead h => exact hR.ecRead _ _ s _ _ h
  | handshake h => exact hR.handshakeStep _ s _ _ h
  | beginWrite ctx a v => exact hR.beginWrite ctx a v s
  | beginRead a => exact hR.beginRead .main a s

/-- A command that is taken leaves its mode on. -/
theorem top_of_takeCommand {c : HostCommand} {s t : State} {u : Unit}
    (h : takeCommand c s = (.ok u, t)) : t.top = (modeOf c).1 := by
  by_cases hc : c = .invalid
  · subst hc; cases h
  · cases hp : s.priv with
    | false => rw [takeCommand_denied hc hp] at h; cases h
    | true => rw [takeCommand_ok hc hp] at h; cases h; rfl

namespace Acts

theorem trans {s t u : State} (h : Acts s t) (h' : Acts t u) : Acts s u := Relation.ReflTransGen.trans h h'

theorem one {s t : State} (h : Act s t) : Acts s t := .single h

theorem engine {s t : State} (h : EngineAct s t) : Acts s t := one (.engine h)

theorem data {s t : State} (h : DataFrame s t) : Acts s t := one (.data h)

/-- Acts, and the EC's own steps after them. -/
theorem turn {s t : State} (h : Acts s t) : Acts s (ecAdvance t) := h.trans (engine (.turn t))

/-- An answer reached by acts. -/
theorem next {α : Type} {s t : State} {a : α} (h : Acts s t) : Holds Acts s (.next (a, t)) := by
  intro b u hu
  cases hu
  exact h

/-- Acts before an answer reached by acts. -/
theorem before {α : Type} {s t : State} {r : Res α} (h : Acts s t) (hr : Holds Acts t r) : Holds Acts s r :=
  fun a u hu => h.trans (hr a u hu)

theorem andThen {α β : Type} {s : State} {r : Res α} {f : α → State → Res β} (hr : Holds Acts s r)
    (hf : ∀ a t, r = .next (a, t) → Holds Acts t (f a t)) : Holds Acts s (Machine.andThen r f) := by
  intro b u hu
  obtain ⟨a, t, ht, hbu⟩ := andThen_eq_next hu
  exact (hr a t ht).trans (hf a t ht b u hbu)

theorem orReturn {α β ε : Type} {s : State} {r : Res (Except ε α)} {f : α → State → Res (Except ε β)}
    (hr : Holds Acts s r) (hf : ∀ a t, Holds Acts t (f a t)) : Holds Acts s (Machine.orReturn r f) := by
  refine andThen hr fun a t _ => ?_
  cases a with
  | ok a => exact hf a t
  | error e => exact next .refl

theorem withTurn {α : Type} {s : State} {r : Res α} (hr : Holds Acts s r) : Holds Acts s (Machine.withTurn r) :=
  andThen hr fun _ _ _ => next (turn .refl)

theorem fatal (e : Event) (s : State) : Acts s (fatal e s) :=
  (engine (.emit e s)).trans (one (.writeExit (.inr rfl)))

/-! ## The engine's operations -/

theorem ecWrite (ctx : Ctx) (a v : Byte) (s : State) : Holds Acts s (Machine.ecWrite ctx a v s) :=
  fun _ _ h => engine (.ecWrite h)

theorem writeDuty (ctx : Ctx) (d : Duty) (s : State) : Holds Acts s (Machine.writeDuty ctx d s) :=
  before (turn .refl) (ecWrite ctx _ _ _)

theorem handshakeStep (ctx : Ctx) (s : State) : Holds Acts s (Machine.handshakeStep ctx s) :=
  fun _ _ h => engine (.handshake h)

theorem dutyWrite (p : Int) (s : State) : Holds Acts s (Machine.dutyWrite .main p s) := by
  unfold Machine.dutyWrite
  split
  · exact andThen (writeDuty .main _ s) fun _ _ _ => next .refl
  · exact next (turn .refl)

/-! ## Start-up and the one-shot modes -/

theorem takeCommand (c : HostCommand) {s : State} (ht : s.top ≠ .exit) : Acts s (Machine.takeCommand c s).2 := by
  by_cases hc : c = .invalid
  · subst hc
    exact fatal .usageError s
  · cases hp : s.priv with
    | false => rw [takeCommand_denied hc hp]; exact fatal .permissionDenied s
    | true =>
      rw [takeCommand_ok hc hp]
      exact (one (.acquire hp)).trans (one (.enterMode (s := { s with acquired := true }) hc rfl ht))

theorem polledRead (r : Polled) (s : State) : Holds Acts s (Machine.polledRead r s) :=
  orReturn (fun _ _ h => engine (.ecRead h)) fun _ _ => next (data ⟨rfl, rfl⟩)

theorem decodeFieldStep (f : Field) (s : State) : Acts s (Machine.decodeFieldStep f s) := data ⟨rfl, rfl⟩

theorem decodePolled (s : State) : Acts s (Machine.decodePolled s) :=
  (decodeFieldStep .duty s).turn.trans <| (decodeFieldStep .rpm _).turn.trans <|
    (decodeFieldStep .cpuTemp _).turn.trans (decodeFieldStep .gpuTemp _).turn

theorem polledSnapshot (s : State) : Holds Acts s (Machine.polledSnapshot s) :=
  orReturn (polledRead .fanDuty s) fun _ s =>
  orReturn (polledRead .rpmHi s) fun _ s =>
  orReturn (polledRead .rpmLo s) fun _ s =>
  orReturn (polledRead .cpuTemp s) fun _ s =>
  orReturn (polledRead .gpuTemp s) fun _ s => next (decodePolled s)

theorem dumpStep (s : State) : Acts s (Machine.dumpStep s) :=
  (engine (.emit _ s)).trans (one (.writeExit (.inl rfl)))

theorem reportAndExit (s : State) : Holds Acts s (Machine.reportAndExit s) :=
  andThen (polledSnapshot s) fun r t _ => by
    cases r with
    | ok f =>
      have hd : DataFrame t { t with phase := .osDump } := ⟨rfl, rfl⟩
      exact next ((data hd).trans (dumpStep _)).turn
    | error i =>
      have hd : DataFrame t { t with phase := .osFailed i } := ⟨rfl, rfl⟩
      exact next ((data hd).trans (fatal _ _)).turn

theorem runDump {s : State} (ht : s.top ≠ .exit) : Holds Acts s (Machine.runDump s) := by
  have hc := takeCommand .dump ht
  unfold Machine.runDump
  split <;> rename_i h <;> rw [h] at hc
  · exact next hc.turn
  · exact before hc.turn (reportAndExit _)

theorem runSetduty (n : Duty) {s : State} (ht : s.top ≠ .exit) : Holds Acts s (Machine.runSetduty n s) := by
  have hc := takeCommand (.setduty n) ht
  unfold Machine.runSetduty
  split <;> rename_i h <;> rw [h] at hc
  · exact next hc.turn
  · refine before hc.turn (andThen (writeDuty .main n _) fun r u _ => ?_)
    cases r with
    | ok _ => exact reportAndExit u
    | error i =>
      have hd : DataFrame u { u with phase := .osFailed i } := ⟨rfl, rfl⟩
      exact next ((data hd).trans (fatal _ _)).turn

/-! ## The Control Loop -/

theorem runAuto {s : State} (ht : s.top ≠ .exit) : Holds Acts s (Machine.runAuto s) := by
  have hc := takeCommand .auto ht
  unfold Machine.runAuto
  split <;> rename_i h <;> rw [h] at hc
  · exact next hc.turn
  · have hauto := top_of_takeCommand h
    have hloop : Act _ (Machine.enterLoop (ecAdvance _)) :=
      .enterLoop (by rw [ecAdvance_top, hauto]; decide) (by rw [ecAdvance_top, hauto]; decide)
    exact next (hc.turn.trans (one hloop)).turn

theorem headStep (s : State) : Acts s (Machine.headStep s) := by
  unfold Machine.headStep
  split
  · exact data ⟨rfl, rfl⟩
  · exact one (.writeExit (.inl rfl))

theorem snapRead_data (s : State) : DataFrame s (Machine.snapRead s).2 := by
  refine ⟨by rw [snapRead_frame], ?_⟩
  unfold Machine.snapRead
  dsimp only
  repeat' split
  all_goals rfl

theorem snapRead (s : State) : Acts s (Machine.snapRead s).2 := data (snapRead_data s)

theorem snapStep (s : State) : Acts s (Machine.snapStep s) := by
  have hr := snapRead s
  unfold Machine.snapStep
  split <;> rename_i h <;> rw [h] at hr <;> exact hr.trans (data ⟨rfl, rfl⟩)

theorem snapFailedStep (e : SnapFailure) (s : State) : Acts s (Machine.snapFailedStep e s) := by
  cases e with
  | openFail => exact fatal _ s
  | _ => exact (engine (.emit _ s)).trans (data ⟨rfl, rfl⟩)

theorem decodeStep (s : State) : Acts s (Machine.decodeStep s) := data ⟨rfl, rfl⟩

theorem decideStep (s : State) : Acts s (Machine.decideStep s) := by
  unfold Machine.decideStep
  repeat' split
  all_goals exact data ⟨rfl, rfl⟩

theorem writtenStep (s : State) : Acts s (Machine.writtenStep s) := by
  have hd : DataFrame s (drawStamp s).2 := ⟨rfl, rfl⟩
  exact (data hd).trans ((engine (.emit _ _)).trans (data ⟨rfl, rfl⟩))

theorem writeFailedStep (i : TimeoutInfo) (s : State) : Acts s (Machine.writeFailedStep i s) :=
  (engine (.emit _ s)).trans (data ⟨rfl, rfl⟩)

theorem sleepStep (s : State) : Acts s (Machine.sleepStep s) := data ⟨rfl, rfl⟩

theorem writeTick (s : State) : Holds Acts s (Machine.writeTick s) :=
  andThen (writeDuty .main _ s) fun r t _ => by
    cases r with
    | ok _ => exact next (writtenStep t).turn
    | error i => exact next (writeFailedStep i t).turn

theorem decideAndWrite (s : State) : Holds Acts s (Machine.decideAndWrite s) := by
  unfold Machine.decideAndWrite
  refine before (decideStep s).turn ?_
  dsimp only
  split
  · exact andThen (writeTick _) fun _ t _ => next (sleepStep t).turn
  · exact next (sleepStep _).turn

theorem snapAndDecide (s : State) : Holds Acts s (Machine.snapAndDecide s) := by
  unfold Machine.snapAndDecide
  refine before (snapStep s).turn ?_
  dsimp only
  split
  · exact next (snapFailedStep _ _).turn
  · exact next ((snapFailedStep _ _).turn.trans (sleepStep _)).turn
  · exact before (decodeStep _).turn (decideAndWrite _)

theorem runTick (s : State) : Holds Acts s (Machine.runTick s) := by
  unfold Machine.runTick
  split
  · exact before (headStep s).turn (snapAndDecide _)
  · exact next (headStep s).turn

/-! ## The guard -/

theorem guardFailedStep (i : TimeoutInfo) (s : State) : Acts s (Machine.guardFailedStep i s) :=
  (engine (.giveUp _ s)).trans (fatal _ _)

/-- The guard in progress moves to a later position. -/
theorem moveGuard {s : State} {pos : GuardPos} (g : GuardState) (h : s.g = .active pos) (hg : g ≠ .idle) :
    Acts s { s with g := g } := one (.moveGuard g (by rw [h]; exact GuardState.noConfusion) hg)

theorem runGuard {s : State} (h : stopAcceptable s = true) : Holds Acts s (Machine.runGuard (Machine.enterGuard s)) := by
  have start : Acts s (clearRunStep (Machine.enterGuard s)) :=
    (one (.enterGuard h)).trans (one (.clearRun GuardState.noConfusion))
  refine before start.turn (andThen (writeDuty .guard _ _) fun r t ht => ?_)
  have hg : t.g = .active .write := (ecWrite_frame ht).1.g_kept
  cases r with
  | ok _ => exact next (moveGuard .done hg GuardState.noConfusion)
  | error i =>
    exact next ((moveGuard (.active (.failed i)) hg GuardState.noConfusion).trans (guardFailedStep i _)).turn

theorem stopRequest (s : State) : Holds Acts s (Machine.stopRequest s) := by
  unfold Machine.stopRequest
  split
  · exact runGuard (by assumption)
  · exact next .refl

/-! ## Operations and steps -/

theorem operation (i : Instr) {s : State} (ht : s.top ≠ .exit) : Holds Acts s (Machine.operation i s) := by
  cases i with
  | acquire =>
    refine next (turn ?_)
    unfold Machine.acquire
    split
    · exact one (.acquire (by assumption))
    · exact .refl
  | portIn p => exact andThen (withTurn fun _ _ h => engine (.readPort h)) fun _ _ _ => next .refl
  | portOut p v => exact andThen (withTurn fun _ _ h => engine (.portOut h)) fun _ _ _ => next .refl
  | waitfor f e => exact andThen (fun _ _ h => engine (.waitfor h)) fun _ _ _ => next .refl
  | ecWrite a v => exact andThen (ecWrite .main a v s) fun _ _ _ => next .refl
  | ecRead a =>
    exact andThen (fun _ _ h => engine (.ecRead h)) fun r _ _ => by cases r <;> exact next .refl
  | dutyWrite p => exact andThen (dutyWrite p s) fun _ _ _ => next .refl
  | dump => exact runDump ht
  | setduty n => exact runSetduty n ht
  | auto => exact runAuto ht
  | invalid => exact next (takeCommand .invalid ht).turn
  | polledSnapshot => exact andThen (polledSnapshot s) fun r _ _ => by cases r <;> exact next .refl
  | snapRead =>
    have hr := snapRead s
    simp only [Machine.operation]
    split <;> rename_i h <;> rw [h] at hr <;> exact next hr.turn
  | tick => exact andThen (runTick s) fun _ _ _ => next .refl
  | guard signal => exact stopRequest s
  | dutyDec | dutyEnc | rpmDec | tempDec | snapDecode | identifyDuty | threshold | nextDuty =>
    exact next (turn .refl)

theorem local_ {s t : State} (h : Acts s t) : Holds Acts s (Machine.local_ t) := next h.turn

/-- A step of the handshake in progress, and the position it leaves. -/
theorem handshakeThen {ctx : Ctx} {s : State} {k : Progress → State → Res Unit}
    (hk : ∀ p t, Holds Acts t (k p t)) : Holds Acts s (Machine.andThen (Machine.handshakeStep ctx s) k) :=
  andThen (handshakeStep ctx s) fun p t _ => hk p t

theorem loopWriteStep (s : State) : Holds Acts s (Machine.loopWriteStep s) := by
  unfold Machine.loopWriteStep
  split
  · exact local_ (engine (.beginWrite _ _ _ s))
  · exact handshakeThen fun p t => by cases p <;> exact next (data ⟨rfl, rfl⟩)

theorem oneShotWriteStep (s : State) : Holds Acts s (Machine.oneShotWriteStep s) := by
  unfold Machine.oneShotWriteStep
  split
  · exact local_ (engine (.beginWrite _ _ _ s))
  · exact handshakeThen fun p t => by cases p <;> exact next (data ⟨rfl, rfl⟩)

theorem oneShotPollStep (r : Polled) (s : State) : Holds Acts s (Machine.oneShotPollStep r s) := by
  have start : Acts s (if s.main.hs = .idle then beginRead .main (polledReg s.cfg r) s else s) := by
    split
    · exact engine (.beginRead _ s)
    · exact .refl
  refine before start (handshakeThen fun p t => ?_)
  cases p with
  | busy => exact next .refl
  | failed i => exact next (data ⟨rfl, rfl⟩)
  | done => dsimp only; split <;> exact next (data ⟨rfl, rfl⟩)

theorem oneShotDecodeStep (f : Field) (s : State) : Acts s (Machine.oneShotDecodeStep f s) := by
  cases f <;> exact data ⟨rfl, rfl⟩

theorem phaseStep {s : State} (hs : s.top ≠ .start) (ht : s.top ≠ .exit) : Holds Acts s (Machine.phaseStep s) := by
  cases hp : s.phase <;> simp only [Machine.phaseStep, hp]
  case entry => exact local_ (one (.enterLoop hs ht))
  case lHead => exact local_ (headStep s)
  case lSnap => exact local_ (snapStep s)
  case lDecode => exact local_ (decodeStep s)
  case lSnapFailed e => exact local_ (snapFailedStep e s)
  case lDecide => exact local_ (decideStep s)
  case lWrite => exact loopWriteStep s
  case lWritten => exact local_ (writtenStep s)
  case lWriteFailed i => exact local_ (writeFailedStep i s)
  case lSleep => exact local_ (sleepStep s)
  case osWrite => exact oneShotWriteStep s
  case osPoll r => exact oneShotPollStep r s
  case osFailed i => exact local_ (fatal _ s)
  case osDecode f => exact local_ (oneShotDecodeStep f s)
  case osDump => exact local_ (dumpStep s)

theorem mainStep (s : State) : Holds Acts s (Machine.mainStep s) := by
  cases htop : s.top <;> simp only [Machine.mainStep, htop]
  case start => exact local_ (takeCommand _ (by rw [htop]; decide))
  case exit => intro _ _ h; cases h
  case dump | setduty | auto => exact phaseStep (by rw [htop]; decide) (by rw [htop]; decide)

theorem guardStep {pos : GuardPos} {s : State} (h : s.g = .active pos) : Holds Acts s (Machine.guardStep pos s) := by
  cases pos with
  | clear => exact local_ (one (.clearRun (by rw [h]; exact GuardState.noConfusion)))
  | failed i => exact local_ (guardFailedStep i s)
  | write =>
    simp only [Machine.guardStep]
    split
    · exact local_ (engine (.beginWrite _ _ _ s))
    · refine andThen (handshakeStep .guard s) fun p t ht => ?_
      have hg : t.g = .active .write := (handshakeStep_frame ht).1.g_kept.trans h
      cases p with
      | busy => exact next .refl
      | done => exact next (moveGuard .done hg GuardState.noConfusion)
      | failed i => exact next (moveGuard _ hg GuardState.noConfusion)

theorem boundaryStep {s : State} (h : stopAcceptable s = true) : Holds Acts s (Machine.boundaryStep s) := by
  have hd : DataFrame s (drawStop s).2 := ⟨rfl, rfl⟩
  refine before (data hd) ?_
  unfold Machine.boundaryStep
  dsimp only
  split
  · exact mainStep _
  · split
    · exact mainStep _
    · exact before (one (.enterGuard h)) (guardStep rfl)

theorem sequencerStep (s : State) : Holds Acts s (Machine.sequencerStep s) := by
  cases hg : s.g <;> simp only [Machine.sequencerStep, hg]
  case active pos => exact guardStep hg
  case idle | done =>
    split
    · exact boundaryStep (by assumption)
    · exact mainStep s

end Acts

/-- What an operation that answers did: acts of the machine, its result left for the caller. -/
theorem exec_acts {i : Instr} {s t : State} (h : exec i s = .next t) : Acts s t := by
  obtain ⟨ht, r, u, hu, rfl⟩ := exec_eq_next h
  have hd : DataFrame u { u with ret := r } := ⟨rfl, rfl⟩
  exact (Acts.operation i ht r u hu).trans (Acts.data hd)

/-- What a step that answers did. -/
theorem step_acts {s t : State} (h : step s = .next t) : Acts s t := by
  obtain ⟨-, ⟨bs, i, rest, -, -, hx⟩ | ⟨-, hx⟩⟩ := step_eq_next h
  · have hd : DataFrame s (clearIssue s) := ⟨rfl, rfl⟩
    exact (Acts.data hd).trans (exec_acts hx)
  · exact Acts.sequencerStep s _ _ hx

end Sys2Proof.Machine
end

section
/-! # The statements about every step -/

namespace Sys2Proof.Machine

/-! ## What every step keeps or lets grow (O54) -/

theorem Grows.refl (s : State) : Grows s s where
  cfg := rfl
  invocation := rfl
  priv := rfl
  log := List.prefix_rfl
  trace := List.prefix_rfl
  acquired := id
  armed := id
  guardTaken := id
  reference := rfl
  corrupt := id

theorem Grows.trans {s t u : State} (h : Grows s t) (h' : Grows t u) : Grows s u where
  cfg := h'.cfg.trans h.cfg
  invocation := h'.invocation.trans h.invocation
  priv := h'.priv.trans h.priv
  log := h.log.trans h'.log
  trace := h.trace.trans h'.trace
  acquired := h'.acquired ∘ h.acquired
  armed := h'.armed ∘ h.armed
  guardTaken := h'.guardTaken ∘ h.guardTaken
  reference := h'.reference.trans h.reference
  corrupt := h'.corrupt ∘ h.corrupt

/-- What the engine never touches: everything but the latches, the EC, the inputs, the trace and the log. -/
def EngineKept (s t : State) : Prop :=
  t = { s with main := t.main, guard := t.guard, ec := t.ec, env := t.env, trace := t.trace, log := t.log }

theorem engineKept_engineClosed : EngineClosed EngineKept where
  refl _ := rfl
  trans h h' := by unfold EngineKept at *; rw [h', h]
  readPort h := by rw [readPort_frame h]; rfl
  portOut h := by rw [portOut_frame h]; rfl
  turn _ := rfl
  setLatches ctx _ _ _ := by cases ctx <;> rfl
  emit _ _ := rfl
  giveUp m _ := by cases m <;> rfl

/-- The records of the engine only grow. -/
theorem records_engineClosed : EngineClosed fun s t => s.log <+: t.log ∧ s.trace <+: t.trace where
  refl _ := ⟨List.prefix_rfl, List.prefix_rfl⟩
  trans h h' := ⟨h.1.trans h'.1, h.2.trans h'.2⟩
  readPort {p d s b t} h := by
    obtain ⟨b', t', ht', hf, htr⟩ := readPort_next p d s (acquired_of_next (readPort_fault p d s) h)
    rw [ht'] at h
    cases h
    exact ⟨by rw [hf], by rw [htr]; exact List.prefix_append _ _⟩
  portOut {p v s u t} h := by
    obtain ⟨t', ht', hf, htr⟩ := portOut_next p v s (acquired_of_next (portOut_fault p v s) h)
    rw [ht'] at h
    cases h
    exact ⟨by rw [hf], by rw [htr]; exact List.prefix_append _ _⟩
  turn _ := ⟨List.prefix_rfl, List.prefix_rfl⟩
  setLatches ctx l s _ := by simp
  emit e s := ⟨List.prefix_append _ _, List.prefix_rfl⟩
  giveUp m s := by simp

theorem EngineAct.grows {s t : State} (h : EngineAct s t) : Grows s t := by
  have hk := engineKept_engineClosed.act h
  obtain ⟨hlog, htrace⟩ := records_engineClosed.act h
  obtain ⟨href, hcor⟩ := corruption_engineClosed.act h
  unfold EngineKept at hk
  exact
    { cfg := by rw [hk]
      invocation := by rw [hk]
      priv := by rw [hk]
      log := hlog
      trace := htrace
      acquired := fun hs => by rw [hk]; exact hs
      armed := fun hs => by rw [hk]; exact hs
      guardTaken := fun hs => by rw [hk]; exact hs
      reference := href
      corrupt := hcor }

theorem Act.grows {s t : State} (h : Act s t) : Grows s t := by
  cases h with
  | engine h => exact h.grows
  | data h => obtain ⟨h, -⟩ := h; rw [h]; exact { Grows.refl s with }
  | acquire => exact { Grows.refl s with acquired := fun _ => rfl }
  | enterMode => exact { Grows.refl s with }
  | enterLoop => exact { Grows.refl s with armed := fun _ => rfl }
  | writeExit => exact { Grows.refl s with }
  | enterGuard => exact { Grows.refl s with guardTaken := fun _ => rfl }
  | clearRun => exact { Grows.refl s with }
  | moveGuard => exact { Grows.refl s with }

theorem Acts.grows {s t : State} (h : Acts s t) : Grows s t := h.lift Grows.refl Grows.trans Act.grows

/-- Settles O54: every step is a sequence of acts, and each act only grows. -/
theorem everyStepOnlyGrows : Obligations.EveryStepOnlyGrows :=
  fun _ _ h => (step_acts h).grows

/-! ## The invariant (O52, O53) -/

/-- Settles O52: every clause is a fact about the reset values. -/
theorem invariantAtReset : Obligations.InvariantAtReset where
  regsWf := reset_mem_wf
  mainPolls := Nat.zero_le _
  guardPolls := Nat.zero_le _
  modeAcquired h := by rcases h with h | h | h <;> cases h
  armedAcquired h := by cases h
  exitTop := by decide
  takenGuard := by decide
  takenArmed h := by cases h
  runCleared h := by cases h
  guardWrites := rfl
  setdutyCmd h := by cases h

/-- The poll counts stay within the cap (R14). -/
def PollsKept (s t : State) : Prop :=
  (s.main.pollN ≤ 100 → t.main.pollN ≤ 100) ∧ (s.guard.pollN ≤ 100 → t.guard.pollN ≤ 100)

theorem pollsKept_engineClosed : EngineClosed PollsKept where
  refl _ := ⟨id, id⟩
  trans h h' := ⟨h'.1 ∘ h.1, h'.2 ∘ h.2⟩
  readPort h := by rw [readPort_frame h]; exact ⟨id, id⟩
  portOut h := by rw [portOut_frame h]; exact ⟨id, id⟩
  turn _ := ⟨id, id⟩
  setLatches ctx l s h := by
    cases ctx with
    | main => exact ⟨fun hs => h.elim id fun he => he ▸ hs, id⟩
    | guard => exact ⟨id, fun hs => h.elim id fun he => he ▸ hs⟩
  emit _ _ := ⟨id, id⟩
  giveUp m s := by simp [PollsKept]

/-- The guard's sequencer stays out of the read table: MAIN does not touch it, and GUARD only writes. -/
theorem EngineAct.guardWrites {s t : State} (h : EngineAct s t) (hs : readState s.guard.hs = false) :
    readState t.guard.hs = false := by
  have main : EngineFrame .main s t → readState t.guard.hs = false := fun hf => by rw [hf.guard_kept]; exact hs
  cases h with
  | turn => exact hs
  | emit => exact hs
  | giveUp => simpa using hs
  | readPort h => exact main ((readPort_frame h).engine _)
  | portOut h => exact main ((portOut_frame h).engine _)
  | waitfor h => exact main (waitfor_frame h)
  | ecRead h => exact main (ecRead_frame h).1
  | beginRead a =>
    exact main ((setLatches_engine .main _ s).trans (goto_engine _ _ _))
  | @ecWrite ctx _ _ _ _ _ h =>
    obtain ⟨hf, hidle⟩ := ecWrite_frame h
    cases ctx with
    | main => exact main hf
    | guard => rw [latches_guard] at hidle; rw [hidle]; rfl
  | @handshake ctx _ _ _ h =>
    obtain ⟨hf, hwrite⟩ := handshakeStep_frame h
    cases ctx with
    | main => exact main hf
    | guard => exact (hwrite hs).2
  | beginWrite ctx =>
    cases ctx with
    | main => exact hs
    | guard => rfl

theorem EngineAct.inv {s t : State} (h : EngineAct s t) (hi : Inv s) : Inv t := by
  have hk := engineKept_engineClosed.act h
  have hregs := regsWf_engineClosed.act h hi.regsWf
  obtain ⟨hmain, hguard⟩ := pollsKept_engineClosed.act h
  have hwrites := h.guardWrites hi.guardWrites
  unfold EngineKept at hk
  exact
    { regsWf := hregs
      mainPolls := hmain hi.mainPolls
      guardPolls := hguard hi.guardPolls
      modeAcquired := by rw [hk]; exact hi.modeAcquired
      armedAcquired := by rw [hk]; exact hi.armedAcquired
      exitTop := by rw [hk]; exact hi.exitTop
      takenGuard := by rw [hk]; exact hi.takenGuard
      takenArmed := by rw [hk]; exact hi.takenArmed
      runCleared := by rw [hk]; exact hi.runCleared
      guardWrites := hwrites
      setdutyCmd := by rw [hk]; exact hi.setdutyCmd }

/-- A mode that is entered has its duty, if it is `T_SETDUTY`. -/
theorem modeOf_setduty {c : HostCommand} (h : (modeOf c).1 = .setduty) : ∃ n, c = .setduty n := by
  cases c with
  | setduty n => exact ⟨n, rfl⟩
  | _ => cases h

/-- A command that is not refused does not enter `T_EXIT`. -/
theorem modeOf_ne_exit {c : HostCommand} (h : c ≠ .invalid) : (modeOf c).1 ≠ .exit := by
  cases c with
  | invalid => exact absurd rfl h
  | _ => exact Top.noConfusion

/-- Before `T_EXIT` nothing is written to `EXIT` (R25). -/
theorem Inv.exit_none {s : State} (hi : Inv s) (ht : s.top ≠ .exit) : s.exit = none := by
  rw [← Option.not_isSome_iff_eq_none]
  exact fun h => ht (hi.exitTop.mp h)

/-- Before `EXIT` and after start-up the ports are acquired. -/
theorem Inv.acquired_of_mode {s : State} (hi : Inv s) (hs : s.top ≠ .start) (ht : s.top ≠ .exit) :
    s.acquired = true := by
  apply hi.modeAcquired
  cases h : s.top with
  | start => exact absurd h hs
  | exit => exact absurd h ht
  | _ => simp

theorem Act.inv {s t : State} (h : Act s t) (hi : Inv s) : Inv t := by
  cases h with
  | engine h => exact h.inv hi
  | data h => obtain ⟨h, -⟩ := h; rw [h]; exact { hi with }
  | acquire => exact { hi with modeAcquired := fun _ => rfl, armedAcquired := fun _ => rfl }
  | enterMode hc ha ht =>
    exact
      { hi with
        modeAcquired := fun _ => ha
        exitTop := by simp [hi.exit_none ht, modeOf_ne_exit hc]
        setdutyCmd := modeOf_setduty }
  | enterLoop hs ht =>
    exact
      { hi with
        armedAcquired := fun _ => hi.acquired_of_mode hs ht
        takenArmed := fun _ => rfl
        runCleared := fun _ h => by cases h }
  | writeExit =>
    exact
      { hi with
        modeAcquired := fun h => by rcases h with h | h | h <;> cases h
        exitTop := by simp
        setdutyCmd := fun h => by cases h }
  | enterGuard h =>
    have harmed : s.armed = true := by
      simp only [stopAcceptable, Bool.and_eq_true] at h
      exact h.1.1
    exact
      { hi with
        takenGuard := by simp
        takenArmed := fun _ => harmed
        runCleared := fun _ _ => rfl }
  | clearRun h =>
    exact
      { hi with
        takenGuard := by simpa using hi.takenGuard.mpr h
        runCleared := fun _ _ => hi.takenGuard.mpr h }
  | moveGuard g h hg =>
    exact { hi with takenGuard := ⟨fun _ => hg, fun _ => hi.takenGuard.mpr h⟩ }

theorem Acts.inv {s t : State} (h : Acts s t) : Inv s → Inv t :=
  h.lift (R := fun s t => Inv s → Inv t) (fun _ => id) (fun h h' => h' ∘ h) Act.inv

/-- Settles O53: every step is a sequence of acts, and each act keeps the invariant. -/
theorem invariantKeptByEveryStep : Obligations.InvariantKeptByEveryStep :=
  fun _ _ hi h => (step_acts h).inv hi

/-! ## The end of a run (O7) -/

/-- `EXIT` is written with 0 or with `EXIT_FAIL` (R25). -/
def ExitCodes (s t : State) : Prop :=
  t.cfg = s.cfg ∧ ∀ c, t.exit = some c → s.exit = some c ∨ c = 0 ∨ c = s.cfg.exitFail

theorem Act.exitCodes {s t : State} (h : Act s t) : ExitCodes s t := by
  refine ⟨h.grows.cfg, fun c hc => ?_⟩
  cases h with
  | engine h => rw [engineKept_engineClosed.act h] at hc; exact .inl hc
  | data h => obtain ⟨h, -⟩ := h; rw [h] at hc; exact .inl hc
  | writeExit h => cases hc; exact .inr h
  | _ => exact .inl hc

theorem Acts.exitCodes {s t : State} (h : Acts s t) : ExitCodes s t := by
  refine h.lift (fun _ => ⟨rfl, fun _ => .inl⟩) (fun {s t u} h h' => ?_) Act.exitCodes
  obtain ⟨hcfg, hexit⟩ := h
  obtain ⟨hcfg', hexit'⟩ := h'
  refine ⟨hcfg'.trans hcfg, fun c hc => ?_⟩
  rcases hexit' c hc with hc | hc
  · exact hexit c hc
  · exact .inr (hcfg ▸ hc)

/-- Settles O7: a step is taken before `EXIT` only, the invariant ties `EXIT` to `T_EXIT`, and every act
writes one of the two codes. -/
theorem exitIsWrittenOnceAndLast : Obligations.ExitIsWrittenOnceAndLast := by
  refine ⟨fun s h => ⟨step_exit h, fun i => exec_exit i h⟩, fun s t hi h => ?_⟩
  have hnone : s.exit = none := hi.exit_none (step_eq_next h).1
  have ht := (step_acts h).inv hi
  refine ⟨hnone, ht.exitTop.symm, fun c hc => ?_⟩
  rcases (step_acts h).exitCodes.2 c hc with hs | hc
  · rw [hnone] at hs; cases hs
  · exact hc

/-! ## The issue port (O5) and the reset values (O4) -/

/-- Settles O4: each value is a field of `State.reset`. -/
theorem resetValues : Obligations.ResetValues :=
  ⟨rfl, rfl, rfl, rfl, rfl, rfl, rfl, rfl, rfl, rfl, rfl⟩

theorem issueStep_ok {bs rest : List Byte} {i : Instr} (s : State) (h : decode bs = .ok (i, rest)) :
    issueStep bs s = exec i (clearIssue s) := by
  rw [issueStep, h]

theorem issueStep_error {bs : List Byte} {e : DecodeError} (s : State) (h : decode bs = .error e) :
    issueStep bs s = .refused (.noOperation e) := by
  rw [issueStep, h]

/-- A table word is an operation word laid out in bytes. -/
theorem decode_of_decodeTableWord {nbits w : Nat} {i : Instr} (h : decodeTableWord nbits w = some i) :
    ∃ rest, decode (tableBytes nbits w) = .ok (i, rest) := by
  unfold decodeTableWord at h
  split at h
  · rename_i j rest hd
    cases h
    exact ⟨rest, hd⟩
  · cases h

/-- Settles O5: before `EXIT` a step with a byte string on the issue port is its decode, then its operation. -/
theorem stepRunsIssuedOperation : Obligations.StepRunsIssuedOperation := by
  refine ⟨fun s bs rest i ht hi hd => ?_, fun s bs e ht hi hd => ?_, fun s nbits w i ht hw => ?_⟩
  · rw [step_issue ht hi, issueStep_ok s hd]; rfl
  · rw [step_issue ht hi, issueStep_error s hd]
  · obtain ⟨rest, hd⟩ := decode_of_decodeTableWord hw
    have hi : (s.withFetchWord nbits w).issue = some (tableBytes nbits w) := rfl
    rw [step_issue (s := s.withFetchWord nbits w) ht hi, issueStep_ok _ hd]; rfl

end Sys2Proof.Machine
end

section
/-! # What the EC and the guard leave alone -/

namespace Sys2Proof.Machine

/-! ## The EC registers (O16) -/

/-- Every move of a script touches no register. -/
def SilentScript (moves : List (List EcMove)) : Prop := ∀ ms ∈ moves, ∀ m ∈ ms, silentMove m = true

/-- A move that touches no register keeps them all. -/
theorem Ec.move_silent (c : Config) {m : EcMove} (e : Ec) (h : silentMove m = true) :
    (Ec.move c m e).regs = e.regs := by
  cases m with
  | consume => cases h
  | sense => cases h
  | produce => simp only [Ec.move]; split <;> rfl
  | drop => simp only [Ec.move]; split <;> rfl
  | take =>
    simp only [Ec.move, Ec.consumeCommand, Ec.takeData]
    repeat' split
    all_goals rfl

theorem Ec.moves_silent (c : Config) (ms : List EcMove) (e : Ec) (h : ∀ m ∈ ms, silentMove m = true) :
    (Ec.moves c ms e).regs = e.regs := by
  induction ms generalizing e with
  | nil => rfl
  | cons m ms ih =>
    obtain ⟨hm, hms⟩ := List.forall_mem_cons.mp h
    exact (ih _ hms).trans (Ec.move_silent c e hm)

/-- An EC that is not corrupt after a turn of silent moves has its registers as before. -/
theorem Ec.turn_silent (c : Config) (ms : List EcMove) (ws : List (Byte × Byte)) (e : Ec)
    (h : ∀ m ∈ ms, silentMove m = true) (hc : (Ec.turn c ms ws e).corrupt = false) :
    (Ec.turn c ms ws e).regs = e.regs := by
  rcases Ec.turn_cases c ms ws e with ht | ⟨hcor, ht⟩
  · rw [ht]; exact Ec.moves_silent c ms e h
  · rw [ht] at hc; exact absurd (hcor.symm.trans hc) Bool.noConfusion

/-- The registers change by the EC's own moves only: the script is used up from the front, and as long as it
lasts, is silent, and the EC is not corrupt at the end, the registers are the same. -/
def RegsKept (s t : State) : Prop :=
  t.env.moves <:+ s.env.moves ∧ (s.ec.corrupt = true → t.ec.corrupt = true) ∧
  (SilentScript s.env.moves → t.env.moves ≠ [] → t.ec.corrupt = false → t.ec.regs = s.ec.regs)

/-- An act that leaves the script and the registers. -/
theorem RegsKept.of_regs {s t : State} (hm : t.env.moves = s.env.moves) (hr : t.ec.regs = s.ec.regs)
    (hc : s.ec.corrupt = true → t.ec.corrupt = true) : RegsKept s t :=
  ⟨by rw [hm], hc, fun _ _ _ => hr⟩

theorem RegsKept.trans {s t u : State} (h : RegsKept s t) (h' : RegsKept t u) : RegsKept s u := by
  obtain ⟨hm, hc, hr⟩ := h
  obtain ⟨hm', hc', hr'⟩ := h'
  refine ⟨hm'.trans hm, hc' ∘ hc, fun hs hne hcu => ?_⟩
  have hnet : t.env.moves ≠ [] := fun h => hne (List.suffix_nil.mp (h ▸ hm'))
  have hct : t.ec.corrupt = false := Bool.eq_false_iff.mpr fun h => by rw [hc' h] at hcu; cases hcu
  exact (hr' (fun ms h => hs ms (hm.subset h)) hne hcu).trans (hr hs hnet hct)

theorem ecAdvance_regsKept (s : State) : RegsKept s (ecAdvance s) := by
  refine ⟨List.tail_suffix _, ecAdvance_corrupt s, fun hs hne hc => ?_⟩
  refine Ec.turn_silent _ _ _ _ ?_ hc
  cases hm : s.env.moves with
  | nil => simp [hm] at hne
  | cons ms rest => exact hs ms (by rw [hm]; exact List.mem_cons_self)

/-- A port read takes no list of moves. -/
theorem readPort_moves {p : Port} {d : Bool} {s t : State} {b : Byte} (h : readPort p d s = .next (b, t)) :
    t.env.moves = s.env.moves := by
  unfold readPort at h
  split at h
  · cases p with
    | sc => cases h; rfl
    | data =>
      dsimp only at h
      repeat' split at h
      all_goals cases h; rfl
  · cases h

theorem portOut_moves {p : Port} {v : Byte} {s t : State} {u : Unit} (h : portOut p v s = .next (u, t)) :
    t.env.moves = s.env.moves := by
  rw [portOut_eq p v s (acquired_of_next (portOut_fault p v s) h)] at h
  cases h
  rfl

theorem regsKept_engineClosed : EngineClosed RegsKept where
  refl _ := .of_regs rfl rfl id
  trans := RegsKept.trans
  readPort h := .of_regs (readPort_moves h) (by rcases readPort_ec h with he | he <;> rw [he])
    (corruption_engineClosed.readPort h).2
  portOut h := .of_regs (portOut_moves h) (by rw [portOut_ec h, Ec.receive_regs])
    (corruption_engineClosed.portOut h).2
  turn := ecAdvance_regsKept
  setLatches ctx l s _ := .of_regs (by simp) (by simp) (by simp)
  emit _ _ := .of_regs rfl rfl id
  giveUp m s := .of_regs (by simp) (by cases m <;> rfl) (corruption_engineClosed.giveUp m s).2

theorem Act.regsKept {s t : State} (h : Act s t) : RegsKept s t := by
  cases h with
  | engine h => exact regsKept_engineClosed.act h
  | data h => obtain ⟨h, hm⟩ := h; exact .of_regs hm (by rw [h]) (by rw [h]; exact id)
  | _ => exact .of_regs rfl rfl id

theorem Acts.regsKept {s t : State} (h : Acts s t) : RegsKept s t :=
  h.lift (R := RegsKept) (fun _ => .of_regs rfl rfl id) RegsKept.trans Act.regsKept

/-- Settles O16: an operation and a step are sequences of acts, and only the EC's own turn changes a register. -/
theorem registersChangeOnlyByTheEc : Obligations.RegistersChangeOnlyByTheEc := by
  intro s t a hs hne hc h
  have hacts : Acts s t := h.elim (fun ⟨_, hx⟩ => exec_acts hx) step_acts
  obtain ⟨-, -, hr⟩ := hacts.regsKept
  rw [hr hs hne hc]

/-! ## MAIN under the guard (O51) -/

/-- A step of the guard that does not end the run: MAIN, its mode, `EXIT` and the Control State are kept, and
the guard stays active or is done. -/
def GuardGoesOn (s t : State) : Prop :=
  MainKept s t ∧ t.top = s.top ∧ t.exit = s.exit ∧ t.csLive = s.csLive ∧ (Inv s → t.log = s.log) ∧
  ((∃ pos, t.g = .active pos) ∨ t.g = .done)

/-- The guard's handshake keeps all of MAIN, and logs nothing while it writes (R213). -/
theorem HandshakeFrame.goesOn {s t : State} (h : HandshakeFrame .guard s t) {g : GuardState}
    (hg : (∃ pos, g = .active pos) ∨ g = .done) : GuardGoesOn s { t with g := g } := by
  obtain ⟨hf, hwrite⟩ := h
  have hlog : Inv s → t.log = s.log := fun hi => (hwrite hi.guardWrites).1
  refine ⟨?_, ?_, ?_, ?_, hlog, hg⟩
  all_goals rw [hf]
  · exact ⟨rfl, rfl, rfl, rfl, rfl, rfl, rfl, rfl⟩
  all_goals rfl

theorem guardStep_goesOn {pos : GuardPos} {s t : State} (hg : s.g = .active pos)
    (hpos : ∀ i, pos ≠ .failed i) (h : guardStep pos s = .next ((), t)) : GuardGoesOn s t := by
  cases pos with
  | failed i => exact absurd rfl (hpos i)
  | clear =>
    cases h
    exact ⟨⟨rfl, rfl, rfl, rfl, rfl, rfl, rfl, rfl⟩, rfl, rfl, rfl, fun _ => rfl, .inl ⟨_, rfl⟩⟩
  | write =>
    simp only [guardStep] at h
    split at h
    · cases h
      exact ⟨⟨rfl, rfl, rfl, rfl, rfl, rfl, rfl, rfl⟩, rfl, rfl, rfl, fun _ => rfl, .inl ⟨_, hg⟩⟩
    · obtain ⟨p, u, hu, hk⟩ := andThen_eq_next h
      have hf := handshakeStep_frame hu
      have hgu : u.g = .active .write := hf.1.g_kept.trans hg
      cases p with
      | busy => cases hk; exact hf.goesOn (g := t.g) (.inl ⟨_, hgu⟩)
      | done => cases hk; exact hf.goesOn (.inr rfl)
      | failed i => cases hk; exact hf.goesOn (.inl ⟨_, rfl⟩)

/-- A guard whose write has failed ends the run (R214); MAIN stays as it is. -/
theorem guardFailedStep_ends (i : TimeoutInfo) (s : State) :
    MainKept s (guardFailedStep i s) ∧ (guardFailedStep i s).top = .exit ∧
    (guardFailedStep i s).exit = some s.cfg.exitFail ∧ (guardFailedStep i s).csLive = false ∧
    (guardFailedStep i s).log = s.log ++ [.timeoutLogged .guard i] ∧ (guardFailedStep i s).trace = s.trace := by
  simp [MainKept, guardFailedStep, fatal]

/-- Settles O51: with the guard active a step is the guard's, by the guard's position. -/
theorem guardFreezesMain : Obligations.GuardFreezesMain := by
  intro s t pos hi hg h
  have hstep : guardStep pos s = .next ((), t) := by
    obtain ⟨-, ⟨bs, i, rest, hbs, -, -⟩ | ⟨-, hx⟩⟩ := step_eq_next h
    · rw [hi] at hbs; cases hbs
    · simpa only [sequencerStep, hg] using hx
  by_cases hfail : ∃ i, pos = .failed i
  · obtain ⟨i, rfl⟩ := hfail
    cases hstep
    obtain ⟨hmain, hend⟩ := guardFailedStep_ends i s
    exact ⟨hmain, fun hne => absurd rfl (hne i), fun j hj => by cases hj; exact hend⟩
  · have hne : ∀ i, pos ≠ .failed i := fun i hpos => hfail ⟨i, hpos⟩
    obtain ⟨hmain, hrest⟩ := guardStep_goesOn hg hne hstep
    exact ⟨hmain, fun _ => hrest, fun i hpos => absurd hpos (hne i)⟩

end Sys2Proof.Machine
end

section
/-! # The table of EC_READ against the whole operation (O57)

The table and the whole operation make the same accesses; they differ in the sequencer state and in the latch
`late`, which the whole operation leaves at rest. `atHs` puts the two latches to the table's values, every
access commutes with it, and the run of the table is followed stage by stage: a wait, the access after it, and
the rest. -/

namespace Sys2Proof.Machine

/-! ## The position in the table -/

/-- The state with a context's sequencer at a position of the table. -/
def atHs (ctx : Ctx) (hs : Hs) (late : Bool) (s : State) : State :=
  setLatches ctx { latches ctx s with hs := hs, late := late } s

@[simp] theorem latches_atHs (ctx : Ctx) (hs : Hs) (late : Bool) (s : State) :
    latches ctx (atHs ctx hs late s) = { latches ctx s with hs := hs, late := late } := by
  simp [atHs]

@[simp] theorem atHs_cfg (ctx : Ctx) (hs : Hs) (late : Bool) (s : State) : (atHs ctx hs late s).cfg = s.cfg := by
  simp [atHs]

@[simp] theorem atHs_acquired (ctx : Ctx) (hs : Hs) (late : Bool) (s : State) :
    (atHs ctx hs late s).acquired = s.acquired := by
  simp [atHs]

@[simp] theorem atHs_ec (ctx : Ctx) (hs : Hs) (late : Bool) (s : State) : (atHs ctx hs late s).ec = s.ec := by
  simp [atHs]

/-- A state that is at the position already. -/
theorem atHs_self {ctx : Ctx} {hs : Hs} {late : Bool} {s : State} (hhs : (latches ctx s).hs = hs)
    (hlate : (latches ctx s).late = late) : atHs ctx hs late s = s := by
  subst hhs hlate
  exact setLatches_latches ctx s

theorem ecAdvance_atHs (ctx : Ctx) (hs : Hs) (late : Bool) (s : State) :
    ecAdvance (atHs ctx hs late s) = atHs ctx hs late (ecAdvance s) := by
  rw [atHs, ecAdvance_setLatches, atHs, ecAdvance_latches]

theorem emit_atHs (ctx : Ctx) (hs : Hs) (late : Bool) (e : Event) (s : State) :
    emit e (atHs ctx hs late s) = atHs ctx hs late (emit e s) := by
  cases ctx <;> rfl

theorem giveUp_atHs (ctx : Ctx) (hs : Hs) (late m : Bool) (s : State) :
    giveUp m (atHs ctx hs late s) = atHs ctx hs late (giveUp m s) := by
  cases ctx <;> cases m <;> rfl

theorem setPollN_atHs (ctx : Ctx) (hs : Hs) (late : Bool) (n : Nat) (s : State) :
    setPollN ctx n (atHs ctx hs late s) = atHs ctx hs late (setPollN ctx n s) := by
  simp [setPollN, atHs]

theorem setResL_atHs (ctx : Ctx) (hs : Hs) (late : Bool) (b : Byte) (s : State) :
    setResL ctx b (atHs ctx hs late s) = atHs ctx hs late (setResL ctx b s) := by
  simp [setResL, atHs]

/-- An entry into a state of the table that is neither a wait nor idle keeps `late`. -/
theorem goto_access {ctx : Ctx} {hs after : Hs} {late : Bool} {s : State} (hw : isWait after = false)
    (hi : after ≠ .idle) : goto ctx after (atHs ctx hs late s) = atHs ctx after late s := by
  simp [goto, atHs, hw, hi]

/-- A wait starts with no poll made and no timeout (R110). -/
theorem goto_wait {ctx : Ctx} {hs after : Hs} {late : Bool} {s : State} (hw : isWait after = true) :
    goto ctx after (atHs ctx hs late s) = atHs ctx after false (setPollN ctx 0 s) := by
  simp [goto, atHs, setPollN, hw]

theorem goto_idle (ctx : Ctx) (hs : Hs) (late : Bool) (s : State) :
    goto ctx .idle (atHs ctx hs late s) = atHs ctx .idle false s := by
  simp [goto, atHs, isWait]

/-! ## Every access commutes with the position -/

/-- An answer with its state put at a position of the table. -/
def answerAt {α : Type} (ctx : Ctx) (hs : Hs) (late : Bool) (r : Res α) : Res α :=
  andThen r fun a t => .next (a, atHs ctx hs late t)

theorem andThen_assoc {α β γ : Type} (r : Res α) (f : α → State → Res β) (g : β → State → Res γ) :
    andThen (andThen r f) g = andThen r fun a t => andThen (f a t) g := by
  cases r <;> rfl

theorem readPort_atHs (ctx : Ctx) (hs : Hs) (late : Bool) (p : Port) (d : Bool) (s : State) :
    readPort p d (atHs ctx hs late s) = answerAt ctx hs late (readPort p d s) := by
  cases ha : s.acquired with
  | false => rw [readPort_fault p d s ha, readPort_fault p d _ (by rw [atHs_acquired, ha])]; rfl
  | true =>
    simp only [readPort, atHs_acquired, atHs_ec, ha, if_true]
    cases p with
    | sc => cases ctx <;> rfl
    | data => cases s.ec.obf && !s.ec.corrupt <;> cases d <;> cases ctx <;> rfl

theorem portOut_atHs (ctx : Ctx) (hs : Hs) (late : Bool) (p : Port) (v : Byte) (s : State) :
    portOut p v (atHs ctx hs late s) = answerAt ctx hs late (portOut p v s) := by
  cases ha : s.acquired with
  | false => rw [portOut_fault p v s ha, portOut_fault p v _ (by rw [atHs_acquired, ha])]; rfl
  | true =>
    rw [portOut_eq p v s ha, portOut_eq p v _ (by rw [atHs_acquired, ha])]
    cases ctx <;> rfl

theorem withTurn_answerAt {α : Type} (ctx : Ctx) (hs : Hs) (late : Bool) (r : Res α) :
    withTurn (answerAt ctx hs late r) = answerAt ctx hs late (withTurn r) := by
  simp only [withTurn, answerAt, andThen_assoc, andThen_next, ecAdvance_atHs]

theorem send_atHs (ctx : Ctx) (hs : Hs) (late : Bool) (p : Port) (v : Byte) (s : State) :
    send p v (atHs ctx hs late s) = answerAt ctx hs late (send p v s) := by
  rw [send, portOut_atHs, withTurn_answerAt, send]

theorem pollOnce_atHs (ctx : Ctx) (hs : Hs) (late : Bool) (f : Flag) (e m : Bool) (s : State) :
    pollOnce ctx f e m (atHs ctx hs late s) = answerAt ctx hs late (pollOnce ctx f e m s) := by
  have hport : portIn .sc (atHs ctx hs late s) = answerAt ctx hs late (portIn .sc s) := readPort_atHs _ _ _ _ _ _
  simp only [pollOnce, hport, answerAt, andThen_assoc, andThen_next, atHs_cfg, latches_atHs, setPollN_atHs,
    giveUp_atHs, ecAdvance_atHs]
  congr 1
  funext b t
  repeat' split
  all_goals rfl

/-! ## Runs of the table -/

/-- The rest of a run, from the answer of a step: over, or at most `n` more steps. -/
def resume (ctx : Ctx) (n : Nat) (r : Res Progress) : Res Progress :=
  andThen r fun p t =>
    match p with
    | .busy => runHandshake ctx n t
    | .done => .next (.done, t)
    | .failed i => .next (.failed i, t)

theorem runHandshake_succ (ctx : Ctx) (n : Nat) (s : State) :
    runHandshake ctx (n + 1) s = resume ctx n (handshakeStep ctx s) := rfl

/-- After the answer `x` of a step the run is over within `n` steps, with the answer `r`. -/
def Resumes (ctx : Ctx) (n : Nat) (x r : Res Progress) : Prop := ∀ k, resume ctx (n + k) x = r

/-- The run from a state is over within `n` steps, with the answer `r`. -/
def Finishes (ctx : Ctx) (n : Nat) (s : State) (r : Res Progress) : Prop := ∀ k, runHandshake ctx (n + k) s = r

theorem Resumes.finishes {ctx : Ctx} {n : Nat} {s : State} {r : Res Progress}
    (h : Resumes ctx n (handshakeStep ctx s) r) : Finishes ctx (n + 1) s r := by
  intro k
  rw [show n + 1 + k = n + k + 1 by omega, runHandshake_succ]
  exact h k

theorem Finishes.resumes {ctx : Ctx} {n : Nat} {s : State} {r : Res Progress} (h : Finishes ctx n s r) :
    Resumes ctx n (.next (.busy, s)) r := h

/-- A run that is over within `n` steps is over within more. -/
theorem Finishes.more {ctx : Ctx} {n : Nat} {s : State} {r : Res Progress} (h : Finishes ctx n s r) (m : Nat) :
    Finishes ctx (n + m) s r := by
  intro k
  rw [Nat.add_assoc]
  exact h (m + k)

/-- A step that makes one access, and the run after each answer of it. -/
theorem Resumes.andThen {ctx : Ctx} {n : Nat} {α : Type} {x : Res α} {f g : α → State → Res Progress}
    (h : ∀ a t, Resumes ctx n (f a t) (g a t)) : Resumes ctx n (Machine.andThen x f) (Machine.andThen x g) := by
  intro k
  cases x with
  | next x => exact h x.1 x.2 k
  | fault => rfl
  | refused => rfl

/-! ## One stage of a transaction -/

/-- The polls of a wait state: `hpoll` says what a step of it makes of one poll, `hhit` and `htimeout` how the
run goes on after the last one. -/
theorem polls_finish {ctx : Ctx} {hs : Hs} {f : Flag} {e m : Bool} {c : Config} {n : Nat}
    {after : Poll → State → Res Progress} {k : Except TimeoutInfo Unit → State → Res Progress}
    (hpoll : ∀ s, s.cfg = c → handshakeStep ctx (atHs ctx hs false s) = andThen (pollOnce ctx f e m s) after)
    (hmiss : ∀ t, after .miss t = .next (.busy, atHs ctx hs false t))
    (hhit : ∀ t, t.cfg = c → Resumes ctx n (after .hit t) (k (.ok ()) t))
    (htimeout : ∀ t, t.cfg = c → Resumes ctx n (after .timeout t) (k (.error (timeoutInfo f e)) t))
    (fuel : Nat) (s : State) (hc : s.cfg = c) (hp : (latches ctx s).pollN + fuel = 100) (hfuel : 0 < fuel) :
    Finishes ctx (n + fuel) (atHs ctx hs false s) (andThen (pollUpTo ctx f e m fuel s) k) := by
  induction fuel generalizing s with
  | zero => exact absurd hfuel (Nat.lt_irrefl 0)
  | succ fuel ih =>
    refine Resumes.finishes (n := n + fuel) ?_
    rw [hpoll s hc, pollUpTo, andThen_assoc]
    cases ha : s.acquired with
    | false => rw [pollOnce_fault _ _ _ _ _ ha]; exact fun _ => rfl
    | true =>
      obtain ⟨r, b, t, ht, hf, -, -, -, hcase⟩ := pollOnce_next ctx f e m s ha
      have hct : t.cfg = c := hf.kept.1.trans hc
      rw [ht]
      cases r with
      | hit => exact fun j => Nat.add_assoc n fuel j ▸ hhit t hct (fuel + j)
      | timeout => exact fun j => Nat.add_assoc n fuel j ▸ htimeout t hct (fuel + j)
      | miss =>
        rcases hcase with ⟨hr, -⟩ | ⟨-, hl, hr, -⟩
        · cases hr
        · have hlt : (latches ctx s).pollN + 1 < 100 := by
            by_contra hge
            rw [if_pos (by omega)] at hr
            cases hr
          have hpn : (latches ctx t).pollN = (latches ctx s).pollN + 1 := by rw [hl]; simp only; omega
          rw [andThen_next, andThen_next, hmiss]
          exact (ih t hct (by omega) (by omega)).resumes

/-- How a whole operation ends as a run of the table: idle, with its result read as progress. -/
def concluded {α : Type} (ctx : Ctx) (r : Res (Except TimeoutInfo α)) : Res Progress :=
  andThen r fun x t => .next (progressOf x, atHs ctx .idle false t)

/-- What a wait of a read answers, by the answer of its `WAITFOR` (R118). -/
def readAnswer (ctx : Ctx) (r : Except TimeoutInfo Unit) (t : State) : Res (Except TimeoutInfo Bool) :=
  match r with
  | .ok _ => .next (.ok true, t)
  | .error i =>
    match t.cfg.readPolicy with
    | .soft => .next (.ok false, ecAdvance (emit (.timeoutLogged ctx i) t))
    | .hard => .next (.error i, t)

theorem readWait_eq (ctx : Ctx) (f : Flag) (e m : Bool) (s : State) :
    readWait ctx f e m s = andThen (waitfor ctx f e (readMidway m s) s) (readAnswer ctx) := rfl

/-- What a wait state of a read makes of one poll (R117, R118). -/
def afterReadPoll (ctx : Ctx) (hs after : Hs) (f : Flag) (e : Bool) (r : Poll) (t : State) : Res Progress :=
  match r with
  | .hit => .next (.busy, atHs ctx after false t)
  | .miss => .next (.busy, atHs ctx hs false t)
  | .timeout =>
    match t.cfg.readPolicy with
    | .soft => .next (.busy, atHs ctx hs true t)
    | .hard => .next (.failed (timeoutInfo f e), atHs ctx .idle false t)

theorem readPollStep_atHs {ctx : Ctx} {hs after : Hs} {f : Flag} {e m : Bool} (s : State)
    (hw : isWait after = false) (hi : after ≠ .idle) :
    readPollStep ctx f e after m (atHs ctx hs false s) =
      andThen (pollOnce ctx f e (readMidway m s) s) (afterReadPoll ctx hs after f e) := by
  have hm : readMidway m (atHs ctx hs false s) = readMidway m s := by simp [readMidway]
  have hlate : ∀ t, setLate ctx (atHs ctx hs false t) = atHs ctx hs true t := fun t => by simp [setLate, atHs]
  rw [readPollStep, hm, pollOnce_atHs, answerAt, andThen_assoc]
  congr 1
  funext r t
  rw [andThen_next]
  cases r with
  | hit => simp only [goto_access hw hi, afterReadPoll]
  | miss => rfl
  | timeout => cases hpol : t.cfg.readPolicy <;> simp only [atHs_cfg, hpol, hlate, goto_idle, afterReadPoll]

/-- The step that logs a soft timeout (R118). -/
theorem readLogStep_atHs {ctx : Ctx} {hs after : Hs} {f : Flag} {e : Bool} (t : State)
    (hw : isWait after = false) (hi : after ≠ .idle) :
    readLogStep ctx f e after (atHs ctx hs true t) =
      .next (.busy, atHs ctx after true (ecAdvance (emit (.timeoutLogged ctx (timeoutInfo f e)) t))) := by
  rw [readLogStep, emit_atHs, ecAdvance_atHs, goto_access hw hi]

/-- A wait of a read, and the rest of it: 100 polls and the event of a timeout at most. -/
theorem readWait_finishes {ctx : Ctx} {hs after : Hs} {f : Flag} {e m : Bool} {n : Nat} {α : Type}
    {k : Bool → State → Res (Except TimeoutInfo α)}
    (hstep : ∀ s, (latches ctx s).hs = hs → handshakeStep ctx s = readWaitStep ctx f e after m s)
    (hw : isWait after = false) (hi : after ≠ .idle)
    (hk : ∀ settled t, Finishes ctx n (atHs ctx after (!settled) t) (concluded ctx (k settled t))) (s : State) :
    Finishes ctx (n + 101) (atHs ctx hs false (setPollN ctx 0 s))
      (concluded ctx (orReturn (readWait ctx f e m s) k)) := by
  have hconcl : concluded ctx (orReturn (readWait ctx f e m s) k) =
      andThen (pollUpTo ctx f e (readMidway m s) 100 (setPollN ctx 0 s)) fun r t =>
        concluded ctx (orReturn (readAnswer ctx r t) k) := by
    simp only [readWait_eq, waitfor, concluded, orReturn, andThen_assoc]
  rw [hconcl]
  refine polls_finish (c := s.cfg) (n := n + 1) (after := afterReadPoll ctx hs after f e)
    (fun u hu => ?_) (fun t => rfl) (fun t _ => ?_) (fun t _ => ?_) 100 _ (by simp [setPollN])
    (by simp [setPollN]) (by omega)
  · have hmid : readMidway m u = readMidway m s := by simp only [readMidway, hu]
    rw [hstep _ (by simp), readWaitStep, if_neg (by simp), readPollStep_atHs u hw hi, hmid]
  · exact ((hk true t).more 1).resumes
  · cases hpol : t.cfg.readPolicy with
    | hard => simp only [afterReadPoll, readAnswer, hpol, orReturn_error]; exact fun _ => rfl
    | soft =>
      simp only [afterReadPoll, readAnswer, hpol, orReturn_ok]
      refine (Resumes.finishes ?_).resumes
      rw [hstep _ (by simp), readWaitStep, if_pos (by simp), readLogStep_atHs t hw hi]
      exact (hk false _).resumes

/-- A send, and the wait after it. -/
theorem send_finishes {ctx : Ctx} {hs after : Hs} {late : Bool} {p : Port} {v : Byte} {n : Nat} {α : Type}
    {k : State → Res (Except TimeoutInfo α)} {t : State}
    (hstep : handshakeStep ctx (atHs ctx hs late t) = sendStep ctx p v after (atHs ctx hs late t))
    (hw : isWait after = true)
    (hk : ∀ u, Finishes ctx n (atHs ctx after false (setPollN ctx 0 u)) (concluded ctx (k u))) :
    Finishes ctx (n + 1) (atHs ctx hs late t) (concluded ctx (andThen (send p v t) fun _ u => k u)) := by
  have hi : after ≠ .idle := fun h => by rw [h] at hw; cases hw
  refine Resumes.finishes ?_
  simp only [hstep, sendStep, send_atHs, answerAt, concluded, andThen_assoc, andThen_next, if_neg hi, goto_wait hw]
  exact Resumes.andThen fun _ u => (hk u).resumes

/-! ## EC_READ -/

/-- `R_DATA`: the byte is a draw where the wait timed out, and the read is over. -/
theorem dataStep_atHs (ctx : Ctx) (settled : Bool) (t : State) :
    dataStep ctx (atHs ctx .rData (!settled) t) =
      concluded ctx (andThen (withTurn (readPort .data settled t)) fun b u => .next (.ok b, setResL ctx b u)) := by
  simp only [dataStep, latches_atHs, Bool.not_not, readPort_atHs, withTurn_answerAt]
  simp only [concluded, answerAt, andThen_assoc, andThen_next, setResL_atHs, goto_idle, progressOf]

theorem readDataPart_finishes (ctx : Ctx) (s : State) :
    Finishes ctx 102 (atHs ctx .rWait3 false (setPollN ctx 0 s)) (concluded ctx (readDataPart ctx s)) := by
  refine readWait_finishes (n := 1) (after := .rData) (fun u hu => by simp only [handshakeStep, hu]) rfl
    Hs.noConfusion (fun settled t => Resumes.finishes (n := 0) ?_) s
  have hstep : handshakeStep ctx (atHs ctx .rData (!settled) t) = dataStep ctx (atHs ctx .rData (!settled) t) := by
    simp only [handshakeStep, latches_atHs]
  rw [hstep, dataStep_atHs]
  cases readPort .data settled t <;> exact fun _ => rfl

theorem readAddrPart_finishes (ctx : Ctx) (s : State) :
    Finishes ctx 204 (atHs ctx .rWait2 false (setPollN ctx 0 s)) (concluded ctx (readAddrPart ctx s)) :=
  readWait_finishes (n := 103) (after := .rAddr) (fun u hu => by simp only [handshakeStep, hu]) rfl
    Hs.noConfusion
    (fun _ _ => send_finishes (by simp only [handshakeStep, latches_atHs]) rfl (readDataPart_finishes ctx)) s

theorem ecRead_finishes (ctx : Ctx) (a : Byte) (s : State) :
    Finishes ctx 306 (beginRead ctx a s) (concluded ctx (ecRead ctx a s)) := by
  have hbegin : beginRead ctx a s = atHs ctx .rWait1 false (setPollN ctx 0 (startRead ctx .idle a s)) := by
    simp [beginRead, goto, isWait, atHs, setPollN, startRead]
  rw [hbegin]
  exact readWait_finishes (n := 205) (after := .rCmd) (fun u hu => by simp only [handshakeStep, hu]) rfl
    Hs.noConfusion
    (fun _ _ => send_finishes (by simp only [handshakeStep, latches_atHs, atHs_cfg]) rfl
      (readAddrPart_finishes ctx)) _

/-- A whole read ends at rest, so its end is that of the table. -/
theorem concluded_ecRead (ctx : Ctx) (a : Byte) (s : State) :
    concluded ctx (ecRead ctx a s) = andThen (ecRead ctx a s) fun r t => .next (progressOf r, t) := by
  cases h : ecRead ctx a s with
  | next x =>
    obtain ⟨-, hhs, hlate⟩ := ecRead_frame h
    rw [concluded, andThen_next, andThen_next, atHs_self hhs hlate]
  | fault => rfl
  | refused => rfl

/-- Settles O57: three waits of 100 polls and one event each, two sends and the data read are 306 steps. -/
theorem readTableRefinesEcRead : Obligations.ReadTableRefinesEcRead := by
  intro ctx a s
  rw [ecRead_finishes ctx a s 0, concluded_ecRead]

end Sys2Proof.Machine
end

section
/-! # The EC's side of the contract (O13, O14, O15) -/

namespace Sys2Proof.Machine

/-! ## IBF (O13) -/

/-- A byte written sets IBF, whatever the EC (R47). -/
@[simp] theorem Ec.receive_ibf (p : Port) (v : Byte) (e : Ec) : (Ec.receive p v e).ibf = true := by
  unfold Ec.receive
  split
  · assumption
  · rfl

@[simp] theorem Ec.consumeCommand_ibf (c : Config) (e : Ec) : (Ec.consumeCommand c e).ibf = e.ibf := by
  simp only [Ec.consumeCommand]
  repeat' split
  all_goals rfl

@[simp] theorem Ec.consumeData_ibf (c : Config) (e : Ec) : (Ec.consumeData c e).ibf = e.ibf := by
  unfold Ec.consumeData
  split <;> rfl

@[simp] theorem Ec.takeData_ibf (e : Ec) : (Ec.takeData e).ibf = e.ibf := by
  unfold Ec.takeData
  split <;> rfl

/-- A move that takes the byte in the input buffer: a consumption, at once or later, by an EC whose behaviour
is defined; the reference responder makes only the first (R47, R52). -/
def Ec.accepts (m : EcMove) (e : Ec) : Prop :=
  e.corrupt = false ∧ (m = .consume ∨ (m = .take ∧ e.reference = false))

/-- A move that takes the byte clears IBF. -/
theorem Ec.move_ibf_accepts (c : Config) {m : EcMove} {e : Ec} (h : Ec.accepts m e) :
    (Ec.move c m e).ibf = false := by
  obtain ⟨hc, rfl | ⟨rfl, href⟩⟩ := h
  · cases hi : e.ibf <;> cases hcmd : e.inbCmd <;> simp [Ec.move, hi, hc, hcmd]
  · cases hi : e.ibf <;> cases hcmd : e.inbCmd <;> simp [Ec.move, hi, hc, href, hcmd]

/-- Any other move leaves IBF as it is. -/
theorem Ec.move_ibf_other (c : Config) {m : EcMove} {e : Ec} (h : ¬ Ec.accepts m e) :
    (Ec.move c m e).ibf = e.ibf := by
  cases m with
  | consume =>
    have hc : e.corrupt = true := by simpa [Ec.accepts] using h
    simp [Ec.move, hc]
  | take =>
    have hn : (e.ibf && !e.corrupt && !e.reference) = false := by
      cases hc : e.corrupt <;> cases href : e.reference <;> simp_all [Ec.accepts]
    simp [Ec.move, hn]
  | produce => simp only [Ec.move]; split <;> rfl
  | drop => simp only [Ec.move]; split <;> rfl
  | sense a v => simp only [Ec.move]; split <;> rfl

/-- Settles O13: of the moves of a sound EC exactly those that take the byte clear IBF, and none sets it. -/
theorem ibfFollowsTheByte : Obligations.IbfFollowsTheByte := by
  refine ⟨Ec.receive_ibf, fun c m e hi hc => ⟨fun hm => ?_, fun hm => Ec.move_ibf_accepts c ⟨hc, hm⟩⟩,
    fun c m e hi => ?_⟩
  · by_contra hno
    have hkept := Ec.move_ibf_other c (m := m) (e := e) fun ha => hno ha.2
    rw [hm, hi] at hkept
    cases hkept
  · by_cases ha : Ec.accepts m e
    · exact Ec.move_ibf_accepts c ha
    · rw [Ec.move_ibf_other c ha, hi]

/-! ## Corruption (O14) -/

/-- The two bytes that corrupt the EC as they are written: one sent while IBF is set, and, but for the
reference responder, a command inside an unfinished transaction (R50, R52). -/
theorem Ec.receive_corrupts {p : Port} {e : Ec} (v : Byte)
    (h : e.ibf = true ∨ (p = .sc ∧ e.ph ≠ .idle ∧ e.reference = false)) :
    (Ec.receive p v e).corrupt = true := by
  unfold Ec.receive
  split
  · rfl
  · obtain hi | ⟨hp, hph, href⟩ := h
    · contradiction
    · simp [hp, hph, href]

/-- A read of either port of a corrupt EC gives a byte that no rule chooses (R46, R50). -/
theorem portIn_corrupt (p : Port) (s : State) (ha : s.acquired = true) (hc : s.ec.corrupt = true) :
    portIn p s = .next (nextByte s, record (.input p (nextByte s)) (drawByte s).2) := by
  cases p with
  | sc => rw [portIn_sc s ha, statusByte, if_pos hc]; rfl
  | data => exact portIn_data_free s ha (.inr hc)

/-- Settles O14: the instants of corruption, what keeps it, and the free byte of a read. -/
theorem corruptionIsForEverAndFree : Obligations.CorruptionIsForEverAndFree := by
  refine ⟨fun p v e => Ec.receive_corrupts v, Ec.abandon_contract,
    fun c ms ws p v e hc => ⟨Ec.turn_corrupt c ms ws e hc, Ec.receive_corrupt p v e hc⟩, ?_⟩
  intro s p ht ha hc
  exact ⟨_, exec_portIn ht (portIn_corrupt p s ha hc), rfl, ecAdvance_corrupt _ hc⟩

/-! ## The data byte of a write (O15) -/

/-- Reading a register after the store of the reference responder (R52). -/
theorem Ec.read_store (c : Config) (a v x : Byte) (m : Mem) (h : m.wf = true) :
    (Ec.store c a v m).read x =
      if x = a ∨ (a = c.board.fanDutyWrAddr ∧ x = c.board.regFanDuty) then v else m.read x := by
  unfold Ec.store
  by_cases ha : a = c.board.fanDutyWrAddr
  · rw [if_pos ha, Mem.read_write _ _ _ _ (Mem.wf_write m a v h), Mem.read_write m a x v h]
    by_cases hx : x = c.board.regFanDuty <;> simp [ha, hx]
  · rw [if_neg ha, Mem.read_write m a x v h]
    simp [ha]

/-- The consumption of the data byte of a write stores it (R52). -/
theorem Ec.consume_writeData (c : Config) {e : Ec} {a : Byte} (hi : e.ibf = true) (hc : e.corrupt = false)
    (hcmd : e.inbCmd = false) (hph : e.ph = .wrData a) :
    (Ec.move c .consume e).regs = Ec.store c a e.inb e.regs := by
  simp [Ec.move, Ec.consumeData, hi, hc, hcmd, hph]

/-- Settles O15: the data byte is stored, and what a store leaves is read back register by register. -/
theorem consumedDataByteIsStored : Obligations.ConsumedDataByteIsStored := by
  intro c e a x hwf hi hc hcmd hph
  rw [Ec.consume_writeData c hi hc hcmd hph, Ec.read_store c a e.inb x e.regs hwf]

end Sys2Proof.Machine
end

section
/-! # The machine never stops before EXIT (O55)

A step stops only at a port access before `ACQUIRE` or at `T_EXIT`; the invariant says that every position
with an access has the ports. -/

namespace Sys2Proof.Machine

/-- An operation or a step that gives a next state. -/
def Answers {α : Type} (r : Res α) : Prop := ∃ x, r = .next x

theorem answers_next {α : Type} (x : α × State) : Answers (.next x) := ⟨x, rfl⟩

theorem Answers.andThen {α β : Type} {r : Res α} {f : α → State → Res β} (hr : Answers r)
    (hf : ∀ a t, Answers (f a t)) : Answers (Machine.andThen r f) := by
  obtain ⟨⟨a, t⟩, rfl⟩ := hr
  exact hf a t

/-! ## The handshake tables, once the ports are acquired -/

theorem pollOnce_answers (ctx : Ctx) (f : Flag) (e m : Bool) {s : State} (h : s.acquired = true) :
    Answers (pollOnce ctx f e m s) := by
  obtain ⟨r, b, t, ht, -⟩ := pollOnce_next ctx f e m s h
  exact ⟨_, ht⟩

theorem writeWaitStep_answers (ctx : Ctx) (after : Hs) (m : Bool) {s : State} (h : s.acquired = true) :
    Answers (writeWaitStep ctx after m s) :=
  (pollOnce_answers ctx _ _ m h).andThen fun r t => by cases r <;> exact answers_next _

theorem readWaitStep_answers (ctx : Ctx) (f : Flag) (e : Bool) (after : Hs) (m : Bool) {s : State}
    (h : s.acquired = true) : Answers (readWaitStep ctx f e after m s) := by
  unfold readWaitStep
  split
  · exact answers_next _
  · refine (pollOnce_answers ctx f e _ h).andThen fun r t => ?_
    cases r with
    | hit => exact answers_next _
    | miss => exact answers_next _
    | timeout => dsimp only; split <;> exact answers_next _

theorem sendStep_answers (ctx : Ctx) (p : Port) (v : Byte) (after : Hs) {s : State} (h : s.acquired = true) :
    Answers (sendStep ctx p v after s) := by
  obtain ⟨t, ht, -⟩ := send_next p v s h
  exact Answers.andThen ⟨_, ht⟩ fun _ _ => answers_next _

theorem dataStep_answers (ctx : Ctx) {s : State} (h : s.acquired = true) : Answers (dataStep ctx s) := by
  obtain ⟨b, t, ht, -⟩ := readPort_next .data (!(latches ctx s).late) s h
  exact (Answers.andThen ⟨_, ht⟩ fun _ _ => answers_next _).andThen fun _ _ => answers_next _

/-- A step of a handshake in progress is an access, and an access after `ACQUIRE` answers (R46). -/
theorem handshakeStep_answers (ctx : Ctx) {s : State} (h : s.acquired = true) :
    Answers (handshakeStep ctx s) := by
  cases he : (latches ctx s).hs <;> simp only [handshakeStep, he]
  case idle => exact answers_next _
  case wWait1 | wWait2 | wWait3 | wWait4 => exact writeWaitStep_answers _ _ _ h
  case wCmd | wAddr | wData | rCmd | rAddr => exact sendStep_answers _ _ _ _ h
  case rWait1 | rWait2 | rWait3 => exact readWaitStep_answers _ _ _ _ _ h
  case rData => exact dataStep_answers _ h

/-! ## MAIN and GUARD -/

theorem oneShotWriteStep_answers {s : State} (h : s.acquired = true) : Answers (oneShotWriteStep s) := by
  unfold oneShotWriteStep
  split
  · exact answers_next _
  · exact (handshakeStep_answers .main h).andThen fun p t => by cases p <;> exact answers_next _

theorem loopWriteStep_answers {s : State} (h : s.acquired = true) : Answers (loopWriteStep s) := by
  unfold loopWriteStep
  split
  · exact answers_next _
  · exact (handshakeStep_answers .main h).andThen fun p t => by cases p <;> exact answers_next _

theorem oneShotPollStep_answers (r : Polled) {s : State} (h : s.acquired = true) :
    Answers (oneShotPollStep r s) := by
  have hstart : (if s.main.hs = .idle then beginRead .main (polledReg s.cfg r) s else s).acquired = true := by
    split
    · simpa [beginRead, goto, startRead] using h
    · exact h
  refine (handshakeStep_answers .main hstart).andThen fun p t => ?_
  cases p with
  | busy => exact answers_next _
  | failed i => exact answers_next _
  | done => dsimp only; split <;> exact answers_next _

theorem phaseStep_answers {s : State} (h : s.acquired = true) : Answers (phaseStep s) := by
  cases hp : s.phase <;> simp only [phaseStep, hp]
  case lWrite => exact loopWriteStep_answers h
  case osWrite => exact oneShotWriteStep_answers h
  case osPoll r => exact oneShotPollStep_answers r h
  all_goals exact answers_next _

/-- A step of MAIN stops only at `T_EXIT`, or inside a mode entered without the ports. -/
theorem mainStep_answers {s : State} (hexit : s.top ≠ .exit) (h : s.top ≠ .start → s.acquired = true) :
    Answers (mainStep s) := by
  cases ht : s.top <;> simp only [mainStep, ht]
  case start => exact answers_next _
  case exit => exact absurd ht hexit
  case dump | setduty | auto => exact phaseStep_answers (h (by rw [ht]; exact Top.noConfusion))

theorem guardStep_answers (pos : GuardPos) {s : State} (h : s.acquired = true) : Answers (guardStep pos s) := by
  cases pos with
  | clear => exact answers_next _
  | failed i => exact answers_next _
  | write =>
    simp only [guardStep]
    split
    · exact answers_next _
    · exact (handshakeStep_answers .guard h).andThen fun p t => by cases p <;> exact answers_next _

/-- At a boundary the step is MAIN's or the first of the guard, which makes no access. -/
theorem boundaryStep_answers {s : State} (h : Answers (mainStep (drawStop s).2)) : Answers (boundaryStep s) := by
  unfold boundaryStep
  dsimp only
  split
  · exact h
  · split
    · exact h
    · exact answers_next _

/-- An active guard has the ports: it was taken while armed (R104, R211). -/
theorem Inv.acquired_of_guard {s : State} {pos : GuardPos} (hi : Inv s) (hg : s.g = .active pos) :
    s.acquired = true := by
  have htaken : s.guardTaken = true := hi.takenGuard.mpr (by rw [hg]; exact GuardState.noConfusion)
  exact hi.armedAcquired (hi.takenArmed htaken)

theorem sequencerStep_answers {s : State} (hi : Inv s) (ht : s.top ≠ .exit) : Answers (sequencerStep s) := by
  have hmode : s.top ≠ .start → s.acquired = true := fun hs => hi.acquired_of_mode hs ht
  cases hg : s.g <;> simp only [sequencerStep, hg]
  case active pos => exact guardStep_answers pos (hi.acquired_of_guard hg)
  case idle | done =>
    split
    · exact boundaryStep_answers (mainStep_answers ht hmode)
    · exact mainStep_answers ht hmode

/-- Settles O55: with the issue port empty a step is the sequencers', which answer in a state of the
invariant. -/
theorem theMachineNeverStops : Obligations.TheMachineNeverStops := by
  intro s hi hissue ht
  obtain ⟨⟨_, t⟩, hstep⟩ := sequencerStep_answers hi ht
  exact ⟨t, by rw [step_sequencer ht hissue, hstep]; rfl⟩

end Sys2Proof.Machine
end

section
/-! # Decoding inverts encoding (O1, O2, O3)

One lemma per operand field says that the decoder reads back what the encoder wrote, one per operand
layout that the decoder takes the fields and leaves the rest of the string; the round trip of each
operation word is its layout's lemma at its fields. -/

namespace Sys2Proof

/-! ## Operand fields -/

theorem decodePort_encodePort (p : Port) : decodePort (encodePort p) = some p := by
  cases p <;> rfl

theorem decodeFlag_encodeFlag (f : Flag) : decodeFlag (encodeFlag f) = some f := by
  cases f <;> rfl

theorem decodeBit_encodeBit (b : Bool) : decodeBit (encodeBit b) = some b := by
  cases b <;> rfl

theorem decodeSignal_encodeSignal (s : StopSignal) : decodeSignal (encodeSignal s) = some s := by
  cases s <;> rfl

theorem decodeDuty_ofNat (d : Duty) : decodeDuty (BitVec.ofNat 8 d.val) = some d := by
  have hbyte : (BitVec.ofNat 8 d.val).toNat = d.val := by
    rw [BitVec.toNat_ofNat]
    omega
  simp [decodeDuty, hbyte]

/-- The four bytes of a 32-bit word, low byte first, put together again. -/
theorem append_extractLsb'_bytes (w : BitVec 32) :
    w.extractLsb' 24 8 ++ w.extractLsb' 16 8 ++ w.extractLsb' 8 8 ++ w.extractLsb' 0 8 = w := by
  rw [BitVec.extractLsb'_append_extractLsb'_eq_extractLsb' (by rfl),
    BitVec.extractLsb'_append_extractLsb'_eq_extractLsb' (by rfl),
    BitVec.extractLsb'_append_extractLsb'_eq_extractLsb' (by rfl)]
  exact BitVec.extractLsb'_eq_self

theorem toInt_ofInt_of_fitsOperand {x : Int} (h : fitsOperand x = true) : (BitVec.ofInt 32 x).toInt = x := by
  simp only [fitsOperand, Bool.and_eq_true, decide_eq_true_eq] at h
  exact BitVec.toInt_ofInt_eq_self (by decide) (by omega) (by omega)

/-! ## Operand layouts -/

theorem oneOperand_of_some {α : Type} {op b : Byte} {f : Byte → Option α} {k : α → Instr} {x : α}
    {rest : List Byte} (h : f b = some x) : oneOperand op f k (b :: rest) = .ok (k x, rest) := by
  simp only [oneOperand, h]

theorem twoOperands_of_some {α β : Type} {op b b' : Byte} {f : Byte → Option α} {g : Byte → Option β}
    {k : α → β → Instr} {x : α} {y : β} {rest : List Byte} (hf : f b = some x) (hg : g b' = some y) :
    twoOperands op f g k (b :: b' :: rest) = .ok (k x y, rest) := by
  simp only [twoOperands, hf, hg]

theorem nextDutyOperands_of_some {op c g b : Byte} {d : Duty} {rest : List Byte} (h : decodeDuty b = some d) :
    nextDutyOperands op (c :: g :: b :: rest) = .ok (.nextDuty c g d, rest) := by
  simp only [nextDutyOperands, h]

theorem intOperand_encodeInt (op : Byte) {k : Int → Instr} {x : Int} {rest : List Byte}
    (h : fitsOperand x = true) : intOperand op k (encodeInt x ++ rest) = .ok (k x, rest) := by
  simp only [encodeInt, List.cons_append, List.nil_append, intOperand, decodeInt, append_extractLsb'_bytes,
    toInt_ofInt_of_fitsOperand h]

theorem imageOperand_append {op : Byte} (img : Image) (rest : List Byte) :
    imageOperand op (img.val ++ rest) = .ok (.snapDecode img, rest) := by
  have htake : (img.val ++ rest).take 256 = img.val := List.take_left' img.property
  have hdrop : (img.val ++ rest).drop 256 = rest := List.drop_left' img.property
  simp only [imageOperand, htake, hdrop, img.property, dif_pos, Subtype.coe_eta]

/-! ## Operation words -/

/-- Settles O1: the first byte selects the operation's layout, and the layout reads every field back. An
operation without operands, or with byte operands only, is decoded by computation. -/
theorem operationWordsRoundTrip : Obligations.OperationWordsRoundTrip := by
  intro i rest hwf
  cases i with
  | acquire | dump | auto | invalid | polledSnapshot | snapRead | tick => rfl
  | ecRead | dutyDec | tempDec | ecWrite | rpmDec => rfl
  | portIn p => exact oneOperand_of_some (decodePort_encodePort p)
  | dutyEnc d | setduty d => exact oneOperand_of_some (decodeDuty_ofNat d)
  | guard s => exact oneOperand_of_some (decodeSignal_encodeSignal s)
  | portOut p => exact twoOperands_of_some (decodePort_encodePort p) rfl
  | waitfor f e => exact twoOperands_of_some (decodeFlag_encodeFlag f) (decodeBit_encodeBit e)
  | dutyWrite => exact intOperand_encodeInt 6 hwf
  | identifyDuty => exact intOperand_encodeInt 12 hwf
  | threshold => exact intOperand_encodeInt 13 hwf
  | nextDuty c g d => exact nextDutyOperands_of_some (decodeDuty_ofNat d)
  | snapDecode img => exact imageOperand_append img rest

/-! ## The host command -/

theorem decodeInvocation_duty (n : Duty) : decodeInvocation [.int n.val] = .setduty n := by
  have hauto : (n.val : Int) ≠ Config.autoSelector := by
    simp only [Config.autoSelector]
    omega
  have hrange : 0 ≤ (n.val : Int) ∧ (n.val : Int) ≤ 100 := by omega
  simp only [decodeInvocation, if_neg hauto, dif_pos hrange, Int.toNat_natCast]

/-- An integer other than the selector of `AUTO` and the duties is no command (R80 (a)). -/
theorem decodeInvocation_int_invalid {n : Int} (hauto : n ≠ Config.autoSelector) (hrange : ¬(0 ≤ n ∧ n ≤ 100)) :
    decodeInvocation [.int n] = .invalid := by
  simp only [decodeInvocation, if_neg hauto, dif_neg hrange]

/-- Settles O2: the split is on the shape of the argument list; a single integer that is no duty lies
outside 0..100. -/
theorem hostCommandDecoding : Obligations.HostCommandDecoding := by
  refine ⟨rfl, rfl, decodeInvocation_duty, fun args hnil hauto hduty => ?_⟩
  match args with
  | [] => exact absurd rfl hnil
  | [.text] | .text :: _ :: _ | .int _ :: _ :: _ => rfl
  | [.int n] =>
    refine decodeInvocation_int_invalid (fun h => hauto (by rw [h])) fun ⟨hlow, hhigh⟩ => ?_
    exact hduty ⟨n.toNat, by omega⟩ (by rw [Int.toNat_of_nonneg hlow])

/-- Settles O3: the invocations are cases of O2; the operation words are evaluated. -/
theorem sampleWordsDecode : Obligations.SampleWordsDecode :=
  ⟨decodeInvocation_duty 100, decodeInvocation_int_invalid (by decide) (by decide),
    decodeInvocation_int_invalid (by decide) (by decide), rfl,
    by decide, by decide, by decide, by decide, by decide⟩

end Sys2Proof
end

section
/-! # The Port Channel (O8 to O12)

An access is recorded, its result is left for the caller, and the EC takes its own steps after it; what an
operation does to the EC is what its access does, and those steps. -/

namespace Sys2Proof.Machine

/-! ## ACQUIRE (O8) -/

/-- Settles O8: the acquisition goes by the privilege alone, and makes no access. -/
theorem acquireNeedsPrivilege : Obligations.AcquireNeedsPrivilege := by
  refine fun s ht => ⟨fun hp => ?_, fun hp => ?_⟩
  · rw [exec_acquire ht, acquire_ok hp]; rfl
  · rw [exec_acquire ht, acquire_denied hp]; rfl

/-! ## Before ACQUIRE (O9) -/

/-- Before `EXIT`, a fault of the operation is the fault of `perform`. -/
theorem perform_fault {f : State → Res Ret} {s : State} {e : Fault} (hs : s.top ≠ .exit)
    (h : f s = .fault e) : perform f s = .fault e := by
  unfold perform
  split
  · contradiction
  · rw [h]

/-- `PORT_IN` before `ACQUIRE` (R104). -/
theorem exec_portIn_fault (p : Port) {s : State} (ht : s.top ≠ .exit) (ha : s.acquired = false) :
    exec (.portIn p) s = .fault .notAcquired := by
  rw [exec_eq_perform]
  exact perform_fault ht (by simp [operation, portIn_fault p s ha])

/-- `PORT_OUT` before `ACQUIRE` (R104). -/
theorem exec_portOut_fault (p : Port) (v : Byte) {s : State} (ht : s.top ≠ .exit) (ha : s.acquired = false) :
    exec (.portOut p v) s = .fault .notAcquired := by
  rw [exec_eq_perform]
  exact perform_fault ht (by simp [operation, portOut_fault p v s ha])

/-- Settles O9: an access before `ACQUIRE` faults; a state of the invariant has a next step before `EXIT`,
and stops with another fault after it. -/
theorem portBeforeAcquireFaults : Obligations.PortBeforeAcquireFaults := by
  refine ⟨fun s p v ht ha => ⟨exec_portIn_fault p ht ha, exec_portOut_fault p v ht ha⟩, fun s hi hissue h => ?_⟩
  by_cases ht : s.top = .exit
  · rw [step_exit ht] at h
    cases h
  · obtain ⟨t, hstep⟩ := theMachineNeverStops s hi hissue ht
    rw [hstep] at h
    cases h

/-! ## PORT_IN (O10, O11) -/

/-- The status byte of a corrupt EC is the one no rule chooses (R50). -/
theorem statusByte_corrupt {c : Config} {e : Ec} (free : Byte) (he : e.corrupt = true) :
    statusByte c e free = free := by
  rw [statusByte, if_pos he]

/-- Settles O10: the byte read is the status byte, and the EC is as it was before its own steps. -/
theorem portInReadsTheStatus : Obligations.PortInReadsTheStatus := by
  intro s ht ha hok
  exact ⟨_, _, exec_portIn ht (portIn_sc s ha), rfl, rfl,
    fun hc => ⟨flagValue_statusByte_ibf _ hok hc, flagValue_statusByte_obf _ hc⟩,
    fun hc => statusByte_corrupt _ hc, ecAdvance_turns _, rfl⟩

/-- Settles O11: the two cases are those of a data read, of a full output buffer and of any other. -/
theorem portInReadsTheData : Obligations.PortInReadsTheData := by
  intro s ht ha
  by_cases hfull : s.ec.obf = true ∧ s.ec.corrupt = false
  · obtain ⟨hobf, hc⟩ := hfull
    have hnot : ¬(s.ec.obf = false ∨ s.ec.corrupt = true) := by simp [hobf, hc]
    exact ⟨_, _, exec_portIn ht (portIn_data_full s ha hobf hc), rfl, rfl,
      fun _ _ => ⟨rfl, ecAdvance_turns _⟩, fun h => absurd h hnot, rfl⟩
  · have hfree : s.ec.obf = false ∨ s.ec.corrupt = true := by simpa [imp_iff_not_or] using hfull
    exact ⟨_, _, exec_portIn ht (portIn_data_free s ha hfree), rfl, rfl,
      fun hobf hc => absurd ⟨hobf, hc⟩ hfull, fun _ => ⟨rfl, ecAdvance_turns _⟩, rfl⟩

/-! ## PORT_OUT (O12) -/

/-- A byte that reaches an empty input buffer, and is no command inside a transaction but for the reference
responder, is taken as it is (R47, R51). -/
theorem Ec.receive_sound {p : Port} {e : Ec} (v : Byte) (hi : e.ibf = false)
    (hcmd : p = .sc → e.ph = .idle ∨ e.reference = true) :
    Ec.receive p v e = { e with inb := v, inbCmd := decide (p = .sc), ibf := true } := by
  have hno : (!e.reference && decide (p = .sc) && decide (e.ph ≠ .idle)) = false := by
    by_cases hp : p = .sc
    · rcases hcmd hp with h | h <;> simp [h]
    · simp [hp]
  simp only [Ec.receive, hi, hno, Bool.or_false, Bool.false_eq_true, if_false]

/-- Settles O12: the EC receives the byte, then takes its own steps, which do not end the corruption. -/
theorem portOutGivesTheByteToTheEc : Obligations.PortOutGivesTheByteToTheEc := by
  intro s p v ht ha
  refine ⟨_, exec_portOut ht (portOut_eq p v s ha), rfl, rfl, fun hi _ hcmd => ?_,
    fun h => ecAdvance_corrupt _ (Ec.receive_corrupts v h), rfl⟩
  rw [← Ec.receive_sound v hi hcmd]
  exact ecAdvance_turns _

end Sys2Proof.Machine
end

section
/-! # The table of EC_WRITE against the whole operation (O56)

As for EC_READ: the run of the table is followed stage by stage, each of them a wait of at most 100 polls and
the send after it. -/

namespace Sys2Proof.Machine

/-! ## One stage of a write -/

/-- What a wait state of a write makes of one poll (R114). -/
def afterWritePoll (ctx : Ctx) (hs after : Hs) (r : Poll) (t : State) : Res Progress :=
  match r with
  | .hit => .next (if after = .idle then .done else .busy, atHs ctx after false t)
  | .miss => .next (.busy, atHs ctx hs false t)
  | .timeout => .next (.failed (timeoutInfo .ibf false), atHs ctx .idle false t)

/-- A wait is followed by an access or by the end of the handshake, never by another wait. -/
theorem writeWaitStep_atHs {ctx : Ctx} {hs after : Hs} {m : Bool} (s : State) (hw : isWait after = false) :
    writeWaitStep ctx after m (atHs ctx hs false s) =
      andThen (pollOnce ctx .ibf false m s) (afterWritePoll ctx hs after) := by
  have hgoto : ∀ t, goto ctx after (atHs ctx hs false t) = atHs ctx after false t := by
    intro t
    by_cases hi : after = .idle
    · rw [hi, goto_idle]
    · exact goto_access hw hi
  rw [writeWaitStep, pollOnce_atHs, answerAt, andThen_assoc]
  congr 1
  funext r t
  rw [andThen_next]
  cases r with
  | hit => simp only [hgoto, afterWritePoll]
  | miss => rfl
  | timeout => simp only [goto_idle, afterWritePoll]

/-- A wait of a write, and the rest of it: 100 polls at most. -/
theorem writeWait_finishes {ctx : Ctx} {hs after : Hs} {m : Bool} {n : Nat} {α : Type}
    {k : Unit → State → Res (Except TimeoutInfo α)}
    (hstep : ∀ s, (latches ctx s).hs = hs → handshakeStep ctx s = writeWaitStep ctx after m s)
    (hw : isWait after = false)
    (hk : ∀ t, Resumes ctx n (afterWritePoll ctx hs after .hit t) (concluded ctx (k () t))) (s : State) :
    Finishes ctx (n + 100) (atHs ctx hs false (setPollN ctx 0 s))
      (concluded ctx (orReturn (waitfor ctx .ibf false m s) k)) := by
  have hconcl : concluded ctx (orReturn (waitfor ctx .ibf false m s) k) =
      andThen (pollUpTo ctx .ibf false m 100 (setPollN ctx 0 s)) fun r t =>
        concluded ctx (orReturn (.next (r, t)) k) := by
    simp only [waitfor, concluded, orReturn, andThen_assoc, andThen_next]
  rw [hconcl]
  refine polls_finish (c := s.cfg) (after := afterWritePoll ctx hs after)
    (fun u _ => ?_) (fun t => rfl) (fun t _ => hk t) (fun t _ _ => rfl) 100 _ (by simp [setPollN])
    (by simp [setPollN]) (by omega)
  rw [hstep _ (by simp), writeWaitStep_atHs u hw]

/-- A wait and the send after it. -/
theorem writeStage_finishes {ctx : Ctx} {hs after : Hs} {m : Bool} {n : Nat} {α : Type}
    {k : State → Res (Except TimeoutInfo α)}
    (hstep : ∀ s, (latches ctx s).hs = hs → handshakeStep ctx s = writeWaitStep ctx after m s)
    (hw : isWait after = false) (hi : after ≠ .idle)
    (hk : ∀ t, Finishes ctx n (atHs ctx after false t) (concluded ctx (k t))) (s : State) :
    Finishes ctx (n + 100) (atHs ctx hs false (setPollN ctx 0 s))
      (concluded ctx (orReturn (waitfor ctx .ibf false m s) fun _ t => k t)) := by
  refine writeWait_finishes (k := fun _ t => k t) hstep hw (fun t => ?_) s
  rw [afterWritePoll, if_neg hi]
  exact (hk t).resumes

/-! ## The end of a write -/

/-- Nothing done after an operation leaves its answer. -/
theorem orReturn_pure {α ε : Type} (r : Res (Except ε α)) : (orReturn r fun x t => .next (.ok x, t)) = r := by
  cases r with
  | next x =>
    obtain ⟨y, t⟩ := x
    cases y <;> rfl
  | fault => rfl
  | refused => rfl

/-- The trailing wait, where the configuration has it. -/
theorem trailingWait_finishes (ctx : Ctx) (s : State) :
    Finishes ctx 100 (atHs ctx .wWait4 false (setPollN ctx 0 s))
      (concluded ctx (waitfor ctx .ibf false false s)) := by
  rw [← orReturn_pure (waitfor ctx .ibf false false s)]
  exact writeWait_finishes (after := .idle) (n := 0) (fun u hu => by simp only [handshakeStep, hu]) rfl
    (fun _ _ => rfl) s

/-- A send keeps the configuration, which says whether a trailing wait follows. -/
theorem send_writeTail (ctx : Ctx) (p : Port) (v : Byte) (t : State) :
    (andThen (send p v t) fun _ u => writeTail ctx u) =
      andThen (send p v t) fun _ u =>
        if t.cfg.writeTrailingWait then waitfor ctx .ibf false false u else .next (.ok (), u) := by
  cases h : send p v t with
  | next x =>
    have hcfg : x.2.cfg = t.cfg := by rw [send_frame h]
    simp only [andThen, writeTail, hcfg]
  | fault => rfl
  | refused => rfl

/-- `W_DATA` and what follows it. -/
theorem dataSend_finishes (ctx : Ctx) (t : State) :
    Finishes ctx 101 (atHs ctx .wData false t)
      (concluded ctx (andThen (send .data (latches ctx t).dataL t) fun _ u => writeTail ctx u)) := by
  have hstep : handshakeStep ctx (atHs ctx .wData false t) =
      sendStep ctx .data (latches ctx t).dataL (if t.cfg.writeTrailingWait then .wWait4 else .idle)
        (atHs ctx .wData false t) := by
    simp only [handshakeStep, latches_atHs, atHs_cfg]
  rw [send_writeTail]
  cases htail : t.cfg.writeTrailingWait with
  | true =>
    simp only [htail, if_true] at hstep ⊢
    exact send_finishes hstep rfl (trailingWait_finishes ctx)
  | false =>
    simp only [htail, Bool.false_eq_true, if_false] at hstep ⊢
    refine (Resumes.finishes (n := 0) ?_).more 100
    rw [hstep, sendStep, send_atHs]
    cases send .data (latches ctx t).dataL t with
    | next x =>
      simp only [answerAt, concluded, andThen, if_true, goto_idle]
      exact fun _ => rfl
    | fault => exact fun _ => rfl
    | refused => exact fun _ => rfl

/-! ## EC_WRITE -/

theorem writeDataPart_finishes (ctx : Ctx) (s : State) :
    Finishes ctx 201 (atHs ctx .wWait3 false (setPollN ctx 0 s)) (concluded ctx (writeDataPart ctx s)) :=
  writeStage_finishes (after := .wData) (fun u hu => by simp only [handshakeStep, hu]) rfl Hs.noConfusion
    (dataSend_finishes ctx) s

theorem writeAddrPart_finishes (ctx : Ctx) (s : State) :
    Finishes ctx 302 (atHs ctx .wWait2 false (setPollN ctx 0 s)) (concluded ctx (writeAddrPart ctx s)) :=
  writeStage_finishes (after := .wAddr) (fun u hu => by simp only [handshakeStep, hu]) rfl Hs.noConfusion
    (fun _ => send_finishes (by simp only [handshakeStep, latches_atHs]) rfl (writeDataPart_finishes ctx)) s

theorem ecWrite_finishes (ctx : Ctx) (a v : Byte) (s : State) :
    Finishes ctx 403 (beginWrite ctx a v s) (concluded ctx (ecWrite ctx a v s)) := by
  have hbegin : beginWrite ctx a v s = atHs ctx .wWait1 false (setPollN ctx 0 (startWrite ctx .idle a v s)) := by
    simp [beginWrite, goto, isWait, atHs, setPollN, startWrite]
  rw [hbegin]
  exact writeStage_finishes (after := .wCmd) (fun u hu => by simp only [handshakeStep, hu]) rfl Hs.noConfusion
    (fun _ => send_finishes (by simp only [handshakeStep, latches_atHs, atHs_cfg]) rfl
      (writeAddrPart_finishes ctx)) _

/-- A whole write ends at rest, so its end is that of the table. -/
theorem concluded_ecWrite (ctx : Ctx) (a v : Byte) (s : State) :
    concluded ctx (ecWrite ctx a v s) = andThen (ecWrite ctx a v s) fun r t => .next (progressOf r, t) := by
  cases ha : s.acquired with
  | false => rw [ecWrite_fault ctx a v s ha]; rfl
  | true =>
    obtain ⟨r, tr, t, ht, -, -, -, -, -, hl⟩ := ecWrite_next ctx a v s ha
    rw [ht, concluded, andThen_next, andThen_next, atHs_self (by rw [hl]) (by rw [hl])]

/-- Settles O56: four waits of 100 polls each and three sends are 403 steps. -/
theorem writeTableRefinesEcWrite : Obligations.WriteTableRefinesEcWrite := by
  intro ctx a v s
  rw [ecWrite_finishes ctx a v s 0, concluded_ecWrite]

end Sys2Proof.Machine
end

section
/-! # What the trace of a transaction holds

A transaction alternates waits, which are status reads only, with its accesses. What it sent and what it read
from the data port are therefore those accesses, and its status reads are counted wait by wait. -/

namespace Sys2Proof.Machine

/-! ## One wait -/

/-- The status reads of one wait, however it ended (R111). -/
def WaitReads (w : List Access) : Prop :=
  (∀ a ∈ w, ∃ b, a = .input .sc b) ∧ 1 ≤ w.length ∧ w.length ≤ 100

theorem GoodWait.waitReads {c : Config} {f : Flag} {e : Bool} {w : List Access} (h : GoodWait c f e w) : WaitReads w := by
  obtain ⟨before, b, rfl, hlen, hshow, -⟩ := h
  have hlt : before.length < 100 := hlen
  refine ⟨fun a ha => ?_, by simp, by simp; omega⟩
  rcases List.mem_append.mp ha with ha | ha
  · obtain ⟨b', rfl, -⟩ := hshow a ha
    exact ⟨b', rfl⟩
  · exact ⟨b, List.mem_singleton.mp ha⟩

theorem BadWait.waitReads {c : Config} {f : Flag} {e : Bool} {w : List Access} (h : BadWait c f e w) : WaitReads w := by
  obtain ⟨hlen, hshow⟩ := h
  have hlen : w.length = 100 := hlen
  refine ⟨fun a ha => ?_, by omega, by omega⟩
  obtain ⟨b, rfl, -⟩ := hshow a ha
  exact ⟨b, rfl⟩

theorem SoftWait.waitReads {c : Config} {ctx : Ctx} {f : Flag} {e : Bool} {w : List Access} {evs : List Event}
    (h : SoftWait c ctx f e w evs) : WaitReads w ∧ evs.length ≤ 1 := by
  obtain ⟨hg, rfl⟩ | ⟨hb, rfl⟩ := h
  · exact ⟨hg.waitReads, by simp⟩
  · exact ⟨hb.waitReads, by simp⟩

/-- A view of the accesses that leaves the status reads out sees nothing of a wait. -/
theorem WaitReads.filterMap {α : Type} {g : Access → Option α} (hg : ∀ b, g (.input .sc b) = none) {w : List Access}
    (h : WaitReads w) : w.filterMap g = [] := by
  refine List.filterMap_eq_nil_iff.mpr fun a ha => ?_
  obtain ⟨b, rfl⟩ := h.1 a ha
  exact hg b

theorem WaitReads.sentIn {w : List Access} (h : WaitReads w) : sentIn w = [] := h.filterMap fun _ => rfl

theorem WaitReads.pollsIn {w : List Access} (h : WaitReads w) : pollsIn w = w.length := by
  refine List.countP_eq_length.mpr fun a ha => ?_
  obtain ⟨b, rfl⟩ := h.1 a ha
  rfl

/-! ## A whole transaction -/

/-- The accesses of a transaction besides its status reads. -/
def partAccesses (parts : List Part) : List Access := parts.flatMap fun p => p.2.2.toList

/-- The trace of parts of which every one was made. -/
def PartsMade (parts : List Part) (tr : List Access) : Prop :=
  match parts with
  | [] => tr = []
  | p :: rest => ∃ w tr', WaitReads w ∧ tr = w ++ p.2.2.toList ++ tr' ∧ PartsMade rest tr'

/-- What a view without status reads sees of the trace are the accesses. -/
theorem PartsMade.filterMap {α : Type} {g : Access → Option α} (hg : ∀ b, g (.input .sc b) = none)
    {parts : List Part} {tr : List Access} (h : PartsMade parts tr) :
    tr.filterMap g = (partAccesses parts).filterMap g := by
  induction parts generalizing tr with
  | nil =>
    obtain rfl : tr = [] := h
    rfl
  | cons p rest ih =>
    obtain ⟨w, tr', hw, rfl, hrest⟩ := h
    simp only [List.filterMap_append, hw.filterMap hg, ih hrest, partAccesses, List.flatMap_cons, List.nil_append]

/-- Between 1 and 100 status reads for each part. -/
theorem PartsMade.polls {parts : List Part} {tr : List Access} (h : PartsMade parts tr)
    (hacc : pollsIn (partAccesses parts) = 0) :
    parts.length ≤ pollsIn tr ∧ pollsIn tr ≤ 100 * parts.length := by
  induction parts generalizing tr with
  | nil =>
    obtain rfl : tr = [] := h
    exact ⟨Nat.le_refl 0, Nat.le_refl 0⟩
  | cons p rest ih =>
    obtain ⟨w, tr', hw, rfl, hrest⟩ := h
    have hsplit : pollsIn p.2.2.toList + pollsIn (partAccesses rest) = 0 := by
      rw [← hacc]
      simp only [pollsIn, partAccesses, List.flatMap_cons, List.countP_append]
    obtain ⟨hlo, hhi⟩ := ih hrest (by omega)
    have hsum : pollsIn (w ++ p.2.2.toList ++ tr') = w.length + pollsIn p.2.2.toList + pollsIn tr' := by
      rw [← hw.pollsIn]
      simp only [pollsIn, List.countP_append]
    obtain ⟨-, h1, h100⟩ := hw
    rw [hsum, List.length_cons]
    omega

/-- A fail-fast transaction without a failure has made every part. -/
theorem FailFastTrace.made {c : Config} {parts : List Part} {tr : List Access}
    (h : FailFastTrace c parts none tr) : PartsMade parts tr := by
  induction parts generalizing tr with
  | nil => exact h.2
  | cons p rest ih =>
    obtain ⟨hno, -⟩ | ⟨w, tr', hw, htr, hrest⟩ := h
    · cases hno
    · exact ⟨w, tr', hw.waitReads, htr, ih hrest⟩

/-- A fail-fast transaction has made its accesses in order, up to a failure. -/
theorem FailFastTrace.filterMap_prefix {α : Type} {g : Access → Option α} (hg : ∀ b, g (.input .sc b) = none)
    {c : Config} {parts : List Part} {failed : Option TimeoutInfo} {tr : List Access}
    (h : FailFastTrace c parts failed tr) : tr.filterMap g <+: (partAccesses parts).filterMap g := by
  induction parts generalizing tr with
  | nil =>
    obtain ⟨-, rfl⟩ := h
    exact List.prefix_rfl
  | cons p rest ih =>
    obtain ⟨-, hbad⟩ | ⟨w, tr', hw, rfl, hrest⟩ := h
    · rw [hbad.waitReads.filterMap hg]
      exact List.nil_prefix
    · simp only [List.filterMap_append, hw.waitReads.filterMap hg, partAccesses, List.flatMap_cons, List.nil_append]
      exact (List.prefix_append_right_inj _).mpr (ih hrest)

/-- Under `soft` every part is made, with at most one event for each (R118). -/
theorem SoftTrace.made {c : Config} {ctx : Ctx} {parts : List Part} {tr : List Access} {evs : List Event}
    (h : SoftTrace c ctx parts tr evs) : PartsMade parts tr ∧ evs.length ≤ parts.length := by
  induction parts generalizing tr evs with
  | nil =>
    obtain ⟨rfl, rfl⟩ := h
    exact ⟨rfl, Nat.le_refl 0⟩
  | cons p rest ih =>
    obtain ⟨w, tr', evs0, evs', hw, htr, rfl, hrest⟩ := h
    obtain ⟨hmade, hlen⟩ := ih hrest
    obtain ⟨hwait, hone⟩ := hw.waitReads
    refine ⟨⟨w, tr', hwait, htr, hmade⟩, ?_⟩
    rw [List.length_append, List.length_cons]
    omega

/-! ## The write transaction -/

theorem partAccesses_writeParts (c : Config) (a v : Byte) :
    partAccesses (writeParts c a v) = [.output .sc c.board.ecCmdWrite, .output .data a, .output .data v] := by
  unfold writeParts
  split <;> rfl

theorem length_writeParts (c : Config) (a v : Byte) :
    (writeParts c a v).length = if c.writeTrailingWait then 4 else 3 := by
  unfold writeParts
  split <;> rfl

/-- The bytes a write transaction sends (R75). -/
theorem sentIn_writeParts (c : Config) (a v : Byte) :
    sentIn (partAccesses (writeParts c a v)) = sentBytes c (.ecWrite a v) := by
  rw [partAccesses_writeParts]
  rfl

end Sys2Proof.Machine
end

section
/-! # WAITFOR, EC_WRITE and DUTY_WRITE (O17, O18, O19, O24) -/

namespace Sys2Proof.Machine

/-- What an operation of the engine leaves in MAIN: its latches `l`, its result, and what the frame allows. -/
theorem EngineFrame.performed {s t : State} {l : Latches} (h : EngineFrame .main s t) (r : Ret) (hl : t.main = l) :
    { t with ret := r } =
      { s with main := l, ec := t.ec, env := t.env, trace := t.trace, log := t.log, ret := r } := by
  subst hl
  exact congrArg (fun u : State => { u with ret := r }) h

/-- The same for an operation that logs nothing. -/
theorem EngineFrame.performed_silent {s t : State} {l : Latches} (h : EngineFrame .main s t) (r : Ret)
    (hlog : t.log = s.log) (hl : t.main = l) :
    { t with ret := r } = { s with main := l, ec := t.ec, env := t.env, trace := t.trace, ret := r } := by
  rw [h.performed r hl, hlog]

/-- The result of a wait or a write, as its caller sees it. -/
theorem retUnit_mapError (r : Except TimeoutInfo Unit) : retUnit (r.mapError .timeout) = retOf (failureOf r) := by
  cases r <;> rfl

/-- The first part of an operation fails, or its answer is that of the rest. -/
theorem orReturn_eq_next {α β ε : Type} {r : Res (Except ε α)} {f : α → State → Res (Except ε β)}
    {x : Except ε β} {t : State} (h : orReturn r f = .next (x, t)) :
    (∃ e, r = .next (.error e, t) ∧ x = .error e) ∨ ∃ a u, r = .next (.ok a, u) ∧ f a u = .next (x, t) := by
  obtain ⟨y, u, hu, hk⟩ := andThen_eq_next h
  cases y with
  | ok a => exact .inr ⟨a, u, hu, hk⟩
  | error e => cases hk; exact .inl ⟨e, hu, rfl⟩

/-! ## WAITFOR (O17) -/

/-- During a poll that abandons nothing the EC changes by its own steps only. -/
theorem pollOnce_turns {ctx : Ctx} {f : Flag} {e : Bool} {s t : State} {r : Poll}
    (h : pollOnce ctx f e false s = .next (r, t)) : EcTurns s.cfg s.ec t.ec := by
  have turn : ∀ u : State, u.cfg = s.cfg → u.ec = s.ec → EcTurns s.cfg s.ec (ecAdvance u).ec :=
    fun u hc he => hc ▸ he ▸ ecAdvance_turns u
  obtain ⟨b, u, hu, hk⟩ := andThen_eq_next h
  rw [portIn_sc s (acquired_of_next (portIn_fault .sc s) hu)] at hu
  cases hu
  dsimp only at hk
  repeat' split at hk
  all_goals
    cases hk
    exact turn _ (by simp [giveUp, setPollN]) (by simp [giveUp, setPollN])

theorem pollUpTo_turns {ctx : Ctx} {f : Flag} {e : Bool} {fuel : Nat} {s t : State}
    {r : Except TimeoutInfo Unit} (h : pollUpTo ctx f e false fuel s = .next (r, t)) :
    EcTurns s.cfg s.ec t.ec := by
  induction fuel generalizing s with
  | zero => cases h; exact .refl _ _
  | succ n ih =>
    obtain ⟨p, u, hu, hk⟩ := andThen_eq_next h
    have hturn := pollOnce_turns hu
    have hcfg : u.cfg = s.cfg := (pollOnce_frame hu).1.kept.1
    cases p with
    | hit => cases hk; exact hturn
    | timeout => cases hk; exact hturn
    | miss => exact hturn.trans (hcfg ▸ ih hk)

theorem waitfor_turns {ctx : Ctx} {f : Flag} {e : Bool} {s t : State} {r : Except TimeoutInfo Unit}
    (h : waitfor ctx f e false s = .next (r, t)) : EcTurns s.cfg s.ec t.ec := by
  have hturn := pollUpTo_turns h
  simpa [setPollN] using hturn

/-- Settles O17: the wait as `waitfor_next` has it, issued in MAIN. -/
theorem waitforPollsAtMostHundredTimes : Obligations.WaitforPollsAtMostHundredTimes := by
  intro s f e hs ha
  obtain ⟨r, tr, t, ht, hf, hlog, htr, -, hl, -, hcase⟩ := waitfor_next .main f e false s ha
  have hturns := waitfor_turns ht
  refine ⟨tr, _, exec_waitfor hs ht, htr, ?_, hturns, hf.performed_silent _ hlog hl⟩
  obtain ⟨rfl, hgood, hpolls⟩ | ⟨rfl, hbad, hpolls, -⟩ := hcase
  · exact .inl ⟨hgood, rfl, hpolls⟩
  · exact .inr ⟨hbad, rfl, hpolls⟩

/-! ## EC_WRITE (O18, O19) -/

/-- Settles O18: the write as `ecWrite_next` has it, issued in MAIN. -/
theorem ecWriteIsFailFast : Obligations.EcWriteIsFailFast := by
  intro s a v hs ha
  obtain ⟨r, tr, t, ht, hf, hlog, htr, hff, -, hl⟩ := ecWrite_next .main a v s ha
  exact ⟨failureOf r, tr, _, exec_ecWrite hs ht, htr, hff, retUnit_mapError r, hf.performed_silent _ hlog hl⟩

/-- An answer after at least `lo` and fewer than `hi` bytes leaves an EC of the contract corrupt (R50). -/
def CorruptIfCut {α : Type} (lo hi : Nat) (s : State) (x : Res (Except TimeoutInfo α)) : Prop :=
  ∀ r t, x = .next (r, t) → ∃ tr, t.trace = s.trace ++ tr ∧
    (lo ≤ (sentIn tr).length → (sentIn tr).length < hi → s.ec.reference = false → t.ec.corrupt = true)

/-- A wait and the send after it: a wait inside the transaction, which is given up with no byte sent, abandons
it. -/
theorem waitSend_cut {α : Type} {ctx : Ctx} {m : Bool} {p : Port} {v : State → Byte} {n : Nat} {s : State}
    {k : State → Res (Except TimeoutInfo α)} (h : s.acquired = true)
    (hk : ∀ w, w.acquired = true → CorruptIfCut 0 n w (k w)) :
    CorruptIfCut (if m then 0 else 1) (n + 1) s
      (orReturn (waitfor ctx .ibf false m s) fun _ u => andThen (send p (v u) u) fun _ w => k w) := by
  intro r t hx
  obtain ⟨r', tr, u, hu, hf, -, htr, -, -, href, hcase⟩ := waitfor_next ctx .ibf false m s h
  obtain ⟨rfl, hgood, -⟩ | ⟨rfl, hbad, -, hcor⟩ := hcase
  · rw [hu, orReturn_ok] at hx
    obtain ⟨w, hw, hfw, htrw⟩ := send_next p (v u) u (by rw [hf.kept.2.1, h])
    rw [hw, andThen_next] at hx
    obtain ⟨tr', htr', hcut⟩ := hk w (by rw [hfw, hf.kept.2.1, h]) r t hx
    have hrefw : w.ec.reference = s.ec.reference :=
      (corruption_engineClosed.send p (v u) u _ w hw).1.trans href
    have hsent : (sentIn (tr ++ [.output p (v u)] ++ tr')).length = (sentIn tr').length + 1 := by
      have h0 := hgood.waitReads.sentIn
      simp only [sentIn, List.filterMap_append] at h0 ⊢
      rw [h0]
      simp [Access.sent]
    refine ⟨tr ++ [.output p (v u)] ++ tr', by simp [htr', htrw, htr], fun _ hhi h0 => ?_⟩
    exact hcut (Nat.zero_le _) (by omega) (hrefw.trans h0)
  · rw [hu, orReturn_error] at hx
    cases hx
    refine ⟨tr, htr, fun hlo _ h0 => hcor ?_ h0⟩
    rw [hbad.waitReads.sentIn] at hlo
    cases m with
    | true => rfl
    | false => cases hlo

theorem writeTail_cut (ctx : Ctx) {s : State} (h : s.acquired = true) : CorruptIfCut 0 0 s (writeTail ctx s) := by
  intro r t hx
  unfold writeTail at hx
  split at hx
  · obtain ⟨r', tr, u, hu, -, -, htr, -⟩ := waitfor_next ctx .ibf false false s h
    rw [hu] at hx
    cases hx
    exact ⟨tr, htr, fun _ hhi => absurd hhi (Nat.not_lt_zero _)⟩
  · cases hx
    exact ⟨[], by simp, fun _ hhi => absurd hhi (Nat.not_lt_zero _)⟩

/-- A write given up after its first byte and before its last (R115 (a)). -/
theorem ecWrite_cut (ctx : Ctx) (a v : Byte) {s : State} (h : s.acquired = true) :
    CorruptIfCut 1 3 s (ecWrite ctx a v s) := by
  have hstart : CorruptIfCut 1 3 (startWrite ctx .idle a v s) (ecWrite ctx a v s) :=
    waitSend_cut (m := false) (by simp [startWrite, h]) fun _ h1 =>
      waitSend_cut (m := true) h1 fun _ h2 => waitSend_cut (m := true) h2 fun _ h3 => writeTail_cut ctx h3
  intro r t hx
  have hcut := hstart r t hx
  simpa [startWrite] using hcut

/-- Settles O19: a complete trace has every part, any other the bytes up to the failure. -/
theorem ecWriteCounts : Obligations.EcWriteCounts := by
  intro s t a v h
  obtain ⟨-, r, u, hop, rfl⟩ := exec_eq_next h
  obtain ⟨x, w, hw, hret⟩ := andThen_eq_next hop
  cases hret
  have ha : s.acquired = true := acquired_of_next (ecWrite_fault .main a v s) hw
  obtain ⟨x', tr, w', hw', -, -, htr, hff, -⟩ := ecWrite_next .main a v s ha
  rw [hw] at hw'
  cases hw'
  have hdata : dataBytesIn tr <+: [] := by
    have hp := hff.filterMap_prefix (g := Access.dataByte) fun _ => rfl
    rwa [partAccesses_writeParts] at hp
  refine ⟨tr, htr, List.prefix_nil.mp hdata, ?_, fun hok => ?_, fun h0 hsent => ?_⟩
  · rw [← sentIn_writeParts]
    exact hff.filterMap_prefix fun _ => rfl
  · cases x with
    | error i => cases hok
    | ok _ =>
      have hmade := FailFastTrace.made hff
      have hpolls := hmade.polls (by rw [partAccesses_writeParts]; rfl)
      rw [length_writeParts] at hpolls
      refine ⟨?_, fun htail => ?_, fun htail => ?_⟩
      · rw [← sentIn_writeParts]
        exact hmade.filterMap fun _ => rfl
      · simpa [htail] using hpolls
      · simpa [htail] using hpolls
  · obtain ⟨tr', htr', hcut⟩ := ecWrite_cut .main a v ha _ _ hw
    obtain rfl : tr = tr' := List.append_cancel_left (htr.symm.trans htr')
    exact hcut (by omega) (by omega) h0

/-! ## DUTY_WRITE (O24) -/

/-- Settles O24: the two branches of the range check. -/
theorem dutyWriteChecksItsRange : Obligations.DutyWriteChecksItsRange := by
  intro s hs
  have hsame : ∀ d : Duty, exec (.dutyWrite d.val) s =
      exec (.ecWrite s.cfg.board.fanDutyWrAddr (dutyEnc d)) (ecAdvance s) := by
    intro d
    have hlt := d.isLt
    have hin : (0 : Int) ≤ d.val ∧ (d.val : Int) ≤ 100 := by omega
    have hop : operation (.dutyWrite d.val) s =
        operation (.ecWrite s.cfg.board.fanDutyWrAddr (dutyEnc d)) (ecAdvance s) := by
      simp only [operation, dutyWrite, dif_pos hin, writeDuty, Int.toNat_natCast, andThen_assoc, andThen_next]
    rw [exec_eq_perform, exec_eq_perform, perform, perform, hop, ecAdvance_top]
  refine ⟨fun p hp => ?_, hsame, fun d ha => ?_⟩
  · have hno : dutyWrite .main p s = .next (.error (.invalidArgument p), ecAdvance s) := by
      rw [dutyWrite, dif_neg (by omega)]
    exact exec_dutyWrite hs hno
  · obtain ⟨r, tr, t, ht, -⟩ := ecWrite_next .main s.cfg.board.fanDutyWrAddr (dutyEnc d) (ecAdvance s) ha
    exact ⟨_, (hsame d).trans (exec_ecWrite hs ht)⟩

end Sys2Proof.Machine
end

section
/-! # EC_READ under both policies (O21, O22) -/

namespace Sys2Proof.Machine

/-! ## Soft (O21) -/

/-- `R_DATA` after an OBF wait that timed out: the byte is one that no rule chooses (R118 (b), R254). -/
theorem dataStep_late {ctx : Ctx} {s : State} (h : s.acquired = true) (hl : (latches ctx s).late = true) :
    ∃ t, dataStep ctx s = .next (.done, t) ∧ (latches ctx t).resL = nextByte s ∧
      t.trace = s.trace ++ [.input .data (nextByte s)] := by
  obtain ⟨u, hu, hcase⟩ := readPort_unsettled s h
  have htrace : u.trace = s.trace := by obtain rfl | rfl := hcase <;> rfl
  rw [dataStep, hl, Bool.not_true, hu, withTurn_next, andThen_next]
  exact ⟨_, rfl, by simp [goto, setResL, nextByte, drawByte], by simp [goto, setResL, nextByte, drawByte, htrace]⟩

/-- Settles O21: under `soft` every part is made; the late byte is the step of `R_DATA` alone. -/
theorem softReadAlwaysAnswers : Obligations.SoftReadAlwaysAnswers := by
  refine ⟨fun s a hs ha hsoft => ?_, fun ctx s ha hhs hlate => ?_⟩
  · obtain ⟨r, b, tr, evs, t, ht, hf, hlog, htr, hcase, hres, -, hl⟩ := ecRead_next .main a s ha
    obtain ⟨-, rfl, htrace⟩ | ⟨hhard, -⟩ := hcase
    · obtain ⟨hmade, hevs⟩ := htrace.made
      obtain ⟨hlo, hhi⟩ := hmade.polls rfl
      have hsent : sentIn tr = sentBytes s.cfg (.ecRead a) := hmade.filterMap fun _ => rfl
      have hdata : dataBytesIn tr = [b] := hmade.filterMap fun _ => rfl
      rw [hres rfl] at hl
      exact ⟨b, tr, evs, _, exec_ecRead_ok hs ht, rfl, htr, hlog, htrace, hsent, hdata, hlo, hhi, hevs,
        hf.performed _ hl⟩
    · rw [hsoft] at hhard
      cases hhard
  · rw [handshakeStep, hhs]
    exact dataStep_late ha hlate

/-! ## Hard (O22) -/

/-- A read that is given up part-way keeps its result latch and leaves an EC of the contract corrupt (R50). -/
def GivenUp (ctx : Ctx) (s : State) (x : Res (Except TimeoutInfo Byte)) : Prop :=
  ∀ i t, x = .next (.error i, t) →
    (latches ctx t).resL = (latches ctx s).resL ∧ (s.ec.reference = false → t.ec.corrupt = true)

/-- What a wait keeps after which a read goes on. -/
theorem readWait_ok_kept {ctx : Ctx} {f : Flag} {e m settled : Bool} {s u : State} (h : s.acquired = true)
    (hu : readWait ctx f e m s = .next (.ok settled, u)) :
    u.acquired = true ∧ u.cfg = s.cfg ∧ u.ec.reference = s.ec.reference ∧
      (latches ctx u).resL = (latches ctx s).resL := by
  obtain ⟨r, tr, evs, t, ht, hf, -, -, -, hl, -⟩ := readWait_next ctx f e m s h
  have href := (corruption_engineClosed.readWait ctx f e m s _ u hu).1
  rw [hu] at ht
  cases ht
  exact ⟨by rw [hf.kept.2.1, h], hf.kept.1, href, by rw [hl]⟩

/-- What a wait of a hard read that times out leaves (R118, R50). -/
theorem readWait_error {ctx : Ctx} {f : Flag} {e m : Bool} {s t : State} {i : TimeoutInfo}
    (h : s.acquired = true) (hhard : s.cfg.readPolicy = .hard) (ht : readWait ctx f e m s = .next (.error i, t)) :
    (∃ w, WaitReads w ∧ t.trace = s.trace ++ w) ∧ (latches ctx t).resL = (latches ctx s).resL ∧
      (m = true → s.ec.reference = false → t.ec.corrupt = true) := by
  obtain ⟨r, tr, evs, t', ht', -, -, htr, -, hl, hcase⟩ := readWait_next ctx f e m s h
  rw [ht] at ht'
  cases ht'
  obtain ⟨hsoft, -⟩ | ⟨-, -, ⟨hok, -⟩ | ⟨-, hbad, hcor⟩⟩ := hcase
  · rw [hhard] at hsoft
    cases hsoft
  · cases hok
  · exact ⟨⟨tr, hbad.waitReads, htr⟩, by rw [hl], hcor⟩

/-- A wait inside a hard read, and the rest of it. -/
theorem readWait_givenUp {ctx : Ctx} {f : Flag} {e : Bool} {s : State}
    {k : Bool → State → Res (Except TimeoutInfo Byte)} (h : s.acquired = true)
    (hhard : s.cfg.readPolicy = .hard)
    (hk : ∀ settled u, u.acquired = true → u.cfg.readPolicy = .hard → GivenUp ctx u (k settled u)) :
    GivenUp ctx s (orReturn (readWait ctx f e true s) k) := by
  intro i t hx
  obtain ⟨j, hj, -⟩ | ⟨settled, u, hu, hrest⟩ := orReturn_eq_next hx
  · obtain ⟨-, hres, hcor⟩ := readWait_error h hhard hj
    exact ⟨hres, hcor rfl⟩
  · obtain ⟨hacq, hcfg, href, hres⟩ := readWait_ok_kept h hu
    obtain ⟨hres', hcor⟩ := hk settled u hacq (by rw [hcfg, hhard]) i t hrest
    exact ⟨hres'.trans hres, fun h0 => hcor (href.trans h0)⟩

/-- A send before the rest of a read. -/
theorem send_givenUp {ctx : Ctx} {p : Port} {v : Byte} {s : State} {k : State → Res (Except TimeoutInfo Byte)}
    (h : s.acquired = true) (hhard : s.cfg.readPolicy = .hard)
    (hk : ∀ u, u.acquired = true → u.cfg.readPolicy = .hard → GivenUp ctx u (k u)) :
    GivenUp ctx s (andThen (send p v s) fun _ u => k u) := by
  intro i t hx
  obtain ⟨w, u, hu, hrest⟩ := andThen_eq_next hx
  have hf := send_frame hu
  have href := (corruption_engineClosed.send p v s w u hu).1
  have hres : (latches ctx u).resL = (latches ctx s).resL := by rw [hf]; cases ctx <;> rfl
  obtain ⟨hres', hcor⟩ := hk u (by rw [hf, h]) (by rw [hf, hhard]) i t hrest
  exact ⟨hres'.trans hres, fun h0 => hcor (href.trans h0)⟩

/-- The data read never fails. -/
theorem readDataPart_givenUp (ctx : Ctx) {s : State} (h : s.acquired = true) (hhard : s.cfg.readPolicy = .hard) :
    GivenUp ctx s (readDataPart ctx s) := by
  refine readWait_givenUp h hhard fun settled u _ _ i t hx => ?_
  obtain ⟨b, w, -, hk⟩ := andThen_eq_next hx
  cases hk

theorem readAddrPart_givenUp (ctx : Ctx) {s : State} (h : s.acquired = true) (hhard : s.cfg.readPolicy = .hard) :
    GivenUp ctx s (readAddrPart ctx s) :=
  readWait_givenUp h hhard fun _ _ hu hpol =>
    send_givenUp hu hpol fun _ hw hpol' => readDataPart_givenUp ctx hw hpol'

/-- A hard read given up: with nothing sent, or part-way. -/
theorem ecRead_error {ctx : Ctx} {a : Byte} {s t : State} {i : TimeoutInfo} (h : s.acquired = true)
    (hhard : s.cfg.readPolicy = .hard) (ht : ecRead ctx a s = .next (.error i, t)) :
    (latches ctx t).resL = (latches ctx s).resL ∧
      ((∃ w, WaitReads w ∧ t.trace = s.trace ++ w) ∨ (s.ec.reference = false → t.ec.corrupt = true)) := by
  have hacq : (startRead ctx .idle a s).acquired = true := by simp [startRead, h]
  have hpol : (startRead ctx .idle a s).cfg.readPolicy = .hard := by simp [startRead, hhard]
  have hec : (startRead ctx .idle a s).ec = s.ec := by simp [startRead]
  have htr0 : (startRead ctx .idle a s).trace = s.trace := by simp [startRead]
  have hres0 : (latches ctx (startRead ctx .idle a s)).resL = (latches ctx s).resL := by simp [startRead]
  obtain ⟨j, hj, -⟩ | ⟨settled, u, hu, hrest⟩ := orReturn_eq_next ht
  · obtain ⟨hw, hres, -⟩ := readWait_error hacq hpol hj
    exact ⟨hres.trans hres0, .inl (htr0 ▸ hw)⟩
  · obtain ⟨hacqu, hcfg, href, hres⟩ := readWait_ok_kept hacq hu
    obtain ⟨hres', hcor⟩ := send_givenUp hacqu (by rw [hcfg, hpol])
      (fun _ hw hpol' => readAddrPart_givenUp ctx hw hpol') i t hrest
    exact ⟨hres'.trans (hres.trans hres0), .inr fun h0 => hcor (by rw [href, hec, h0])⟩

/-- Settles O22: the read as `ecRead_next` has it under `hard`, and what a failure leaves. -/
theorem hardReadIsFailFast : Obligations.HardReadIsFailFast := by
  intro s a hs ha hhard
  obtain ⟨r, b, tr, evs, t, ht, hf, hlog, htr, hcase, hres, -, hl⟩ := ecRead_next .main a s ha
  obtain ⟨hsoft, -⟩ | ⟨-, rfl, hbyte, htrace⟩ := hcase
  · rw [hhard] at hsoft
    cases hsoft
  · rw [List.append_nil] at hlog
    cases r with
    | ok b' =>
      obtain rfl := hbyte b' rfl
      exact ⟨none, b', tr, _, exec_ecRead_ok hs ht, htr, htrace, fun _ => ⟨rfl, hres rfl⟩, fun _ hno => (by cases hno),
        hf.performed_silent _ hlog hl⟩
    | error i =>
      obtain ⟨hkept, hgiven⟩ := ecRead_error ha hhard ht
      refine ⟨some i, b, tr, _, exec_ecRead_error hs ht, htr, htrace, fun hno => (by cases hno), fun j hj => ?_,
        hf.performed_silent _ hlog hl⟩
      cases hj
      refine ⟨rfl, hkept, fun hsent h0 => ?_⟩
      obtain ⟨w, hw, htrw⟩ | hcor := hgiven
      · obtain rfl : tr = w := List.append_cancel_left (htr.symm.trans htrw)
        exact absurd hw.sentIn hsent
      · exact hcor h0

end Sys2Proof.Machine
end

section
/-! # The prompt EC (O20, O23)

Every wait ends at its first poll and every byte is consumed at the boundary after it (R52), so a transaction
is followed access by access: `PromptTo` says what accesses leave of ECHC, and the lemmas about `Ec.move` what
each byte makes of the EC. -/

namespace Sys2Proof.Machine

/-! ## The EC takes a byte as soon as it is sent -/

/-- The EC with its input buffer emptied of a byte, at a position of its transaction. -/
def Ec.took (v : Byte) (cmd : Bool) (ph : EcPhase) (e : Ec) : Ec := { e with inb := v, inbCmd := cmd, ph := ph }

/-- What a prompt write makes of the EC (R52). -/
def Ec.written (c : Config) (a v : Byte) (e : Ec) : Ec :=
  { Ec.took v false .idle e with regs := Ec.store c a v e.regs }

/-- The EC with the answer to a read in its output buffer (R52). -/
def Ec.answered (a : Byte) (e : Ec) : Ec :=
  { Ec.took a false .idle e with outb := e.regs.read a, obf := true }

/-- A byte that reaches a sound EC with an empty input buffer, no command inside a transaction, is consumed. -/
theorem Ec.consume_receive (c : Config) {p : Port} {v : Byte} {e : Ec} (hi : e.ibf = false)
    (hc : e.corrupt = false) (hcmd : p = .sc → e.ph = .idle) :
    Ec.move c .consume (Ec.receive p v e) =
      if p = .sc then Ec.consumeCommand c (Ec.took v true e.ph e) else Ec.consumeData c (Ec.took v false e.ph e) := by
  have hclear : ∀ cmd, { e with inb := v, inbCmd := cmd, ibf := false } = Ec.took v cmd e.ph e :=
    fun cmd => by rw [← hi, Ec.took]
  rw [Ec.receive_sound v hi fun hp => .inl (hcmd hp), Ec.move, if_pos (by simp [hc])]
  cases p with
  | sc => exact congrArg (Ec.consumeCommand c) (hclear true)
  | data => exact congrArg (Ec.consumeData c) (hclear false)

/-- The write command, where it is not the read command too. -/
theorem Ec.takes_writeCommand {c : Config} {e : Ec} (hne : c.board.ecCmdRead ≠ c.board.ecCmdWrite)
    (he : EcIdle e) : Ec.move c .consume (Ec.receive .sc c.board.ecCmdWrite e) =
      Ec.took c.board.ecCmdWrite true .wrAddr e := by
  obtain ⟨hi, -, hph, hc⟩ := he
  rw [Ec.consume_receive c hi hc fun _ => hph, if_pos rfl]
  simp [Ec.consumeCommand, Ec.took, hph, hne.symm]

theorem Ec.takes_readCommand (c : Config) {e : Ec} (he : EcIdle e) :
    Ec.move c .consume (Ec.receive .sc c.board.ecCmdRead e) = Ec.took c.board.ecCmdRead true .rdAddr e := by
  obtain ⟨hi, -, hph, hc⟩ := he
  rw [Ec.consume_receive c hi hc fun _ => hph, if_pos rfl]
  simp [Ec.consumeCommand, Ec.took, hph]

theorem Ec.takes_writeAddr (c : Config) (a : Byte) {e : Ec} (hi : e.ibf = false) (hc : e.corrupt = false)
    (hph : e.ph = .wrAddr) :
    Ec.move c .consume (Ec.receive .data a e) = Ec.took a false (.wrData a) e := by
  rw [Ec.consume_receive c hi hc Port.noConfusion, if_neg Port.noConfusion]
  simp [Ec.consumeData, Ec.took, hph]

theorem Ec.takes_writeData (c : Config) (v : Byte) {a : Byte} {e : Ec} (hi : e.ibf = false)
    (hc : e.corrupt = false) (hph : e.ph = .wrData a) :
    Ec.move c .consume (Ec.receive .data v e) = Ec.written c a v e := by
  rw [Ec.consume_receive c hi hc Port.noConfusion, if_neg Port.noConfusion]
  simp [Ec.consumeData, Ec.took, Ec.written, hph]

theorem Ec.takes_readAddr (c : Config) (a : Byte) {e : Ec} (hi : e.ibf = false) (hc : e.corrupt = false)
    (hph : e.ph = .rdAddr) : Ec.move c .consume (Ec.receive .data a e) = Ec.answered a e := by
  rw [Ec.consume_receive c hi hc Port.noConfusion, if_neg Port.noConfusion]
  simp [Ec.consumeData, Ec.took, Ec.answered, hph]

/-! ## One access -/

/-- The ports are acquired, and the EC is sound with its input buffer empty. -/
structure TakesBytes (s : State) : Prop where
  acquired : s.acquired = true
  ok : s.cfg.ok = true
  ibf : s.ec.ibf = false
  corrupt : s.ec.corrupt = false

/-- What accesses that took one poll for each wait leave of ECHC. -/
structure PromptTo (ctx : Ctx) (s : State) (tr : List Access) (t : State) : Prop where
  cfg : t.cfg = s.cfg
  acquired : t.acquired = s.acquired
  log : t.log = s.log
  trace : t.trace = s.trace ++ tr
  latches : latches ctx t = { latches ctx s with pollN := 0 }

theorem PromptTo.trans {ctx : Ctx} {s t u : State} {tr tr' : List Access} (h : PromptTo ctx s tr t)
    (h' : PromptTo ctx t tr' u) : PromptTo ctx s (tr ++ tr') u where
  cfg := h'.cfg.trans h.cfg
  acquired := h'.acquired.trans h.acquired
  log := h'.log.trans h.log
  trace := by rw [h'.trace, h.trace, List.append_assoc]
  latches := by rw [h'.latches, h.latches]

/-- A port access leaves the latches as they are. -/
theorem PromptTo.access {ctx : Ctx} {s t u : State} {tr : List Access} {a : Access} (h : PromptTo ctx s tr t)
    (hf : PortFrame t u) (htr : u.trace = t.trace ++ [a]) : PromptTo ctx s (tr ++ [a]) u where
  cfg := by rw [hf, h.cfg]
  acquired := by rw [hf, h.acquired]
  log := by rw [hf, h.log]
  trace := by rw [htr, h.trace, List.append_assoc]
  latches := by rw [← h.latches, hf]; cases ctx <;> rfl

theorem PromptTo.takesBytes {ctx : Ctx} {s t : State} {tr : List Access} (h : PromptTo ctx s tr t)
    (hs : TakesBytes s) (hi : t.ec.ibf = false) (hc : t.ec.corrupt = false) : TakesBytes t :=
  ⟨h.acquired.trans hs.acquired, by rw [h.cfg, hs.ok], hi, hc⟩

/-- The EC's own steps at a boundary with a script that leaves it sound. -/
theorem ecAdvance_scripted {s : State} {ms : List EcMove} {rest : List (List EcMove)}
    (hm : s.env.moves = ms :: rest) (hc : (Ec.moves s.cfg ms s.ec).corrupt = false) :
    (ecAdvance s).ec = Ec.moves s.cfg ms s.ec ∧ (ecAdvance s).env.moves = rest := by
  refine ⟨?_, by rw [ecAdvance_env, hm, List.tail_cons]⟩
  rw [← Ec.turn_sound s.cfg ms (Config.freeWrites s.env.drawn) s.ec hc]
  simp only [ecAdvance, hm, headOr]

/-- A poll that finds its flag, while the EC makes no move. -/
theorem pollOnce_prompt (ctx : Ctx) {f : Flag} {e : Bool} (m : Bool) {s : State} {rest : List (List EcMove)}
    (ha : s.acquired = true) (hc : s.ec.corrupt = false)
    (hflag : ∀ free, flagValue s.cfg f (statusByte s.cfg s.ec free) = e) (hm : s.env.moves = [] :: rest) :
    ∃ b u, pollOnce ctx f e m s = .next (.hit, u) ∧ PortFrame s u ∧ u.trace = s.trace ++ [.input .sc b] ∧
      u.ec = s.ec ∧ u.env.moves = rest := by
  let b := statusByte s.cfg s.ec (drawByte s).1
  let t := record (.input .sc b) (drawByte s).2
  have hhit : flagValue t.cfg f b = e := hflag _
  obtain ⟨hec, hrest⟩ := ecAdvance_scripted (s := t) hm hc
  exact ⟨b, ecAdvance t, by rw [pollOnce, portIn_sc s ha, andThen_next, if_pos hhit], rfl, rfl, hec, hrest⟩

/-- A wait whose flag is there already. -/
theorem waitfor_prompt (ctx : Ctx) {f : Flag} {e : Bool} (m : Bool) {s : State} {rest : List (List EcMove)}
    (hs : TakesBytes s) (hflag : ∀ free, flagValue s.cfg f (statusByte s.cfg s.ec free) = e)
    (hm : s.env.moves = [] :: rest) :
    ∃ b u, waitfor ctx f e m s = .next (.ok (), u) ∧ PromptTo ctx s [.input .sc b] u ∧ u.ec = s.ec ∧
      u.env.moves = rest := by
  have hstart : PromptTo ctx s [] (setPollN ctx 0 s) := by constructor <;> simp [setPollN]
  have hec : (setPollN ctx 0 s).ec = s.ec := by simp [setPollN]
  have henv : (setPollN ctx 0 s).env = s.env := by simp [setPollN]
  obtain ⟨b, u, hpoll, hf, htr, hecu, hrest⟩ := pollOnce_prompt ctx (f := f) (e := e) m
    (s := setPollN ctx 0 s) (hstart.acquired.trans hs.acquired) (by rw [hec, hs.corrupt])
    (by rw [hstart.cfg, hec]; exact hflag) (by rw [henv, hm])
  exact ⟨b, u, by rw [waitfor, Config.pollLimit, pollUpTo, hpoll, andThen_next], hstart.access hf htr,
    hecu.trans hec, hrest⟩

/-- A wait for IBF, which is clear. -/
theorem waitIbf_prompt (ctx : Ctx) (m : Bool) {s : State} {rest : List (List EcMove)} (hs : TakesBytes s)
    (hm : s.env.moves = [] :: rest) :
    ∃ b u, waitfor ctx .ibf false m s = .next (.ok (), u) ∧ PromptTo ctx s [.input .sc b] u ∧ u.ec = s.ec ∧
      u.env.moves = rest :=
  waitfor_prompt ctx m hs (fun free => by rw [flagValue_statusByte_ibf free hs.ok hs.corrupt, hs.ibf]) hm

/-- A send whose byte the EC consumes at the boundary after it. -/
theorem send_prompt {p : Port} {v : Byte} {s : State} {rest : List (List EcMove)} (h : s.acquired = true)
    (hm : s.env.moves = [.consume] :: rest)
    (hc : (Ec.move s.cfg .consume (Ec.receive p v s.ec)).corrupt = false) :
    ∃ t, send p v s = .next ((), t) ∧ PortFrame s t ∧ t.trace = s.trace ++ [.output p v] ∧
      t.ec = Ec.move s.cfg .consume (Ec.receive p v s.ec) ∧ t.env.moves = rest := by
  let t := record (.output p v) { s with ec := Ec.receive p v s.ec }
  obtain ⟨hec, hrest⟩ := ecAdvance_scripted (s := t) hm hc
  exact ⟨ecAdvance t, by rw [send, portOut_eq p v s h, withTurn_next], rfl, rfl, hec, hrest⟩

/-- A wait for IBF, and the send after it, which makes the EC `e`. -/
theorem waitSend_prompt (ctx : Ctx) (m : Bool) (p : Port) (v : State → Byte) {vv : Byte} {s : State} {e : Ec}
    {rest : List (List EcMove)} (hs : TakesBytes s) (hm : s.env.moves = [] :: [.consume] :: rest)
    (hv : ∀ b u, PromptTo ctx s [.input .sc b] u → v u = vv)
    (he : Ec.move s.cfg .consume (Ec.receive p vv s.ec) = e) (hi : e.ibf = false) (hc : e.corrupt = false) :
    ∃ b u w, waitfor ctx .ibf false m s = .next (.ok (), u) ∧ send p (v u) u = .next ((), w) ∧
      PromptTo ctx s [.input .sc b, .output p vv] w ∧ TakesBytes w ∧ w.ec = e ∧ w.env.moves = rest := by
  obtain ⟨b, u, hwait, hu, hecu, hmu⟩ := waitIbf_prompt ctx m hs hm
  have heu : Ec.move u.cfg .consume (Ec.receive p vv u.ec) = e := by rw [hu.cfg, hecu, he]
  obtain ⟨w, hsend, hf, htr, hecw, hmw⟩ :=
    send_prompt (hu.acquired.trans hs.acquired) hmu (by rw [heu, hc])
  have hw := hu.access hf htr
  have hece := hecw.trans heu
  exact ⟨b, u, w, hwait, by rw [hv b u hu, hsend], hw, hw.takesBytes hs (by rw [hece, hi]) (by rw [hece, hc]),
    hece, hmw⟩

/-- What is sent by a wait and a send, and the accesses after them. -/
theorem sentIn_waitSend (b : Byte) (p : Port) (v : Byte) (tr : List Access) :
    sentIn ([.input .sc b, .output p v] ++ tr) = (p, v) :: sentIn tr := rfl

/-! ## EC_WRITE (O20) -/

/-- The script of the trailing wait, where there is one. -/
def promptTail (c : Config) : List (List EcMove) := if c.writeTrailingWait then [[]] else []

/-- The trailing wait takes one poll; without it the EC is left as the last send left it. -/
theorem writeTail_prompt (ctx : Ctx) {s : State} {rest : List (List EcMove)} (hs : TakesBytes s)
    (hp : (latches ctx s).pollN = 0) (hm : s.env.moves = promptTail s.cfg ++ rest) :
    ∃ tr t, writeTail ctx s = .next (.ok (), t) ∧ PromptTo ctx s tr t ∧ sentIn tr = [] ∧
      tr.length = (promptTail s.cfg).length ∧ t.ec = s.ec ∧ t.env.moves = rest := by
  unfold writeTail
  cases htail : s.cfg.writeTrailingWait with
  | true =>
    simp only [promptTail, htail, if_true] at hm ⊢
    obtain ⟨b, u, hwait, hu, hec, hmoves⟩ := waitIbf_prompt ctx false hs hm
    exact ⟨_, u, hwait, hu, rfl, rfl, hec, hmoves⟩
  | false =>
    simp only [promptTail, htail, Bool.false_eq_true, if_false] at hm ⊢
    have hself : latches ctx s = { latches ctx s with pollN := 0 } := by rw [← hp]
    exact ⟨[], s, rfl, ⟨rfl, rfl, rfl, by simp, hself⟩, rfl, rfl, rfl, hm⟩

/-- From the third wait on: the data byte is sent and stored. -/
theorem writeDataPart_prompt (ctx : Ctx) {a : Byte} {s : State} {rest : List (List EcMove)} (hs : TakesBytes s)
    (hph : s.ec.ph = .wrData a) (hm : s.env.moves = [] :: [.consume] :: (promptTail s.cfg ++ rest)) :
    ∃ tr t, writeDataPart ctx s = .next (.ok (), t) ∧ PromptTo ctx s tr t ∧
      sentIn tr = [(.data, (latches ctx s).dataL)] ∧ tr.length = (promptTail s.cfg).length + 2 ∧
      t.ec = Ec.written s.cfg a (latches ctx s).dataL s.ec ∧ t.env.moves = rest := by
  obtain ⟨b, u, w, hwait, hsend, hw, hwb, hec, hmw⟩ :=
    waitSend_prompt ctx true .data (fun u => (latches ctx u).dataL) hs hm (fun _ u hu => by rw [hu.latches])
      (Ec.takes_writeData s.cfg _ hs.ibf hs.corrupt hph) hs.ibf hs.corrupt
  obtain ⟨tr, t, htail, ht, hsent, hlen, hect, hmt⟩ :=
    writeTail_prompt ctx hwb (by rw [hw.latches]) (by rw [hw.cfg, hmw])
  rw [hw.cfg] at hlen
  exact ⟨_, t, by rw [writeDataPart, hwait, orReturn_ok, hsend, andThen_next, htail], hw.trans ht,
    by rw [sentIn_waitSend, hsent], congrArg (· + 2) hlen, hect.trans hec, hmt⟩

/-- From the second wait on: the address byte first. -/
theorem writeAddrPart_prompt (ctx : Ctx) {s : State} {rest : List (List EcMove)} (hs : TakesBytes s)
    (hph : s.ec.ph = .wrAddr)
    (hm : s.env.moves = [] :: [.consume] :: [] :: [.consume] :: (promptTail s.cfg ++ rest)) :
    ∃ tr t, writeAddrPart ctx s = .next (.ok (), t) ∧ PromptTo ctx s tr t ∧
      sentIn tr = [(.data, (latches ctx s).addrL), (.data, (latches ctx s).dataL)] ∧
      tr.length = (promptTail s.cfg).length + 4 ∧
      t.ec = Ec.written s.cfg (latches ctx s).addrL (latches ctx s).dataL s.ec ∧ t.env.moves = rest := by
  obtain ⟨b, u, w, hwait, hsend, hw, hwb, hec, hmw⟩ :=
    waitSend_prompt ctx true .data (fun u => (latches ctx u).addrL) hs hm (fun _ u hu => by rw [hu.latches])
      (Ec.takes_writeAddr s.cfg _ hs.ibf hs.corrupt hph) hs.ibf hs.corrupt
  obtain ⟨tr, t, hrest, ht, hsent, hlen, hect, hmt⟩ :=
    writeDataPart_prompt ctx (a := (latches ctx s).addrL) hwb (by rw [hec, Ec.took]) (by rw [hw.cfg, hmw])
  rw [hw.cfg] at hlen hect
  rw [hw.latches] at hsent hect
  exact ⟨_, t, by rw [writeAddrPart, hwait, orReturn_ok, hsend, andThen_next, hrest], hw.trans ht,
    by rw [sentIn_waitSend, hsent], congrArg (· + 2) hlen, by rw [hect, hec]; rfl,
    hmt⟩

/-- A prompt write: seven accesses, or six without the trailing wait, and the byte stored (R115, R52). -/
theorem ecWrite_prompt (ctx : Ctx) (a v : Byte) {s : State} {rest : List (List EcMove)} (ha : s.acquired = true)
    (hok : s.cfg.ok = true) (hne : s.cfg.board.ecCmdRead ≠ s.cfg.board.ecCmdWrite) (he : EcIdle s.ec)
    (hm : s.env.moves = promptWrite s.cfg.writeTrailingWait ++ rest) :
    ∃ tr t, ecWrite ctx a v s = .next (.ok (), t) ∧ t.trace = s.trace ++ tr ∧
      sentIn tr = sentBytes s.cfg (.ecWrite a v) ∧ tr.length = (promptTail s.cfg).length + 6 ∧
      t.ec = Ec.written s.cfg a v s.ec ∧ t.env.moves = rest ∧ (latches ctx t).pollN = 0 := by
  have hcfg : (startWrite ctx .idle a v s).cfg = s.cfg := by simp [startWrite]
  have hec0 : (startWrite ctx .idle a v s).ec = s.ec := by simp [startWrite]
  have htr0 : (startWrite ctx .idle a v s).trace = s.trace := by simp [startWrite]
  have henv : (startWrite ctx .idle a v s).env = s.env := by simp [startWrite]
  have ⟨hi, _, _, hc⟩ := he
  have hs0 : TakesBytes (startWrite ctx .idle a v s) :=
    ⟨by simp [startWrite, ha], by rw [hcfg, hok], by rw [hec0, hi], by rw [hec0, hc]⟩
  obtain ⟨b, u, w, hwait, hsend, hw, hwb, hec, hmw⟩ :=
    waitSend_prompt ctx false .sc (fun u => u.cfg.board.ecCmdWrite) hs0
      (e := Ec.took s.cfg.board.ecCmdWrite true .wrAddr s.ec)
      (rest := [] :: [.consume] :: [] :: [.consume] :: (promptTail s.cfg ++ rest)) (by rw [henv, hm]; rfl)
      (fun _ u hu => by rw [hu.cfg, hcfg])
      (by rw [hcfg, hec0, Ec.takes_writeCommand hne he]) hi hc
  obtain ⟨tr, t, hrest, ht, hsent, hlen, hect, hmt⟩ :=
    writeAddrPart_prompt ctx hwb (by rw [hec, Ec.took]) (by rw [hw.cfg, hcfg, hmw])
  have hl : latches ctx w = { latches ctx s with hs := .idle, late := false, addrL := a, dataL := v, pollN := 0 } := by
    rw [hw.latches]; simp [startWrite]
  rw [hw.cfg, hcfg] at hlen hect
  rw [hl] at hsent hect
  have hall := hw.trans ht
  exact ⟨_, t, by rw [ecWrite, hwait, orReturn_ok, hsend, andThen_next, hrest], by rw [hall.trace, htr0],
    by rw [sentIn_waitSend, hsent]; rfl, congrArg (· + 2) hlen, by rw [hect, hec]; rfl,
    hmt, by rw [hall.latches]⟩

/-- Settles O20: the prompt write, and what its store leaves in each register. -/
theorem promptEcTakesTheWrite : Obligations.PromptEcTakesTheWrite := by
  intro s a v rest hs ha hok hne he hwf hm
  obtain ⟨tr, t, ht, htr, hsent, hlen, hec, hmt, hpoll⟩ := ecWrite_prompt .main a v ha hok hne he hm
  obtain ⟨hi, ho, -, hc⟩ := he
  have hidle : EcIdle t.ec := by rw [hec]; exact ⟨hi, ho, rfl, hc⟩
  have hregs : t.ec.regs = Ec.store s.cfg a v s.ec.regs := by rw [hec, Ec.written]
  refine ⟨tr, _, exec_ecWrite hs ht, rfl, htr, ?_, hsent, hidle, hmt, hpoll, fun x => ?_⟩
  · rw [hlen, promptTail]
    split <;> rfl
  · rw [← Ec.read_store s.cfg a v x s.ec.regs hwf, ← hregs]

/-! ## EC_READ (O23) -/

/-- A wait of a read that succeeds, under either policy. -/
theorem readWait_of_waitfor {ctx : Ctx} {f : Flag} {e m : Bool} {s u : State}
    (h : waitfor ctx f e (readMidway m s) s = .next (.ok (), u)) :
    readWait ctx f e m s = .next (.ok true, u) := by
  rw [readWait, h, andThen_next]

/-- From the third wait on: OBF is there, and the byte is the one in the output buffer. -/
theorem readDataPart_prompt (ctx : Ctx) {s : State} {rest : List (List EcMove)} (hs : TakesBytes s)
    (ho : s.ec.obf = true) (hm : s.env.moves = [] :: [] :: rest) :
    ∃ tr t, readDataPart ctx s = .next (.ok s.ec.outb, setResL ctx s.ec.outb t) ∧ PromptTo ctx s tr t ∧
      sentIn tr = [] ∧ tr.length = 2 ∧ t.ec = { s.ec with obf := false } ∧ t.env.moves = rest := by
  obtain ⟨b, u, hwait, hu, hecu, hmu⟩ := waitfor_prompt ctx (f := .obf) (e := true) (readMidway true s) hs
    (fun free => by rw [flagValue_statusByte_obf free hs.corrupt, ho]) hm
  let t := record (.input .data u.ec.outb) { u with ec := { u.ec with obf := false } }
  have hread : readPort .data true u = .next (u.ec.outb, t) :=
    portIn_data_full u (hu.acquired.trans hs.acquired) (by rw [hecu, ho]) (by rw [hecu, hs.corrupt])
  have hsound : (Ec.moves t.cfg [] t.ec).corrupt = false := by
    show u.ec.corrupt = false
    rw [hecu, hs.corrupt]
  obtain ⟨hect, hmt⟩ := ecAdvance_scripted (s := t) hmu hsound
  have hrun : readDataPart ctx s = .next (.ok u.ec.outb, setResL ctx u.ec.outb (ecAdvance t)) := by
    rw [readDataPart, readWait_of_waitfor hwait, orReturn_ok, hread, withTurn_next, andThen_next]
  have hframe : PortFrame u (ecAdvance t) := rfl
  rw [hecu] at hrun
  refine ⟨_, ecAdvance t, hrun, hu.access hframe rfl, rfl, rfl, ?_, hmt⟩
  rw [hect, ← hecu]
  rfl

/-- From the second wait on: the address byte is sent and answered. -/
theorem readAddrPart_prompt (ctx : Ctx) {a : Byte} {s : State} {rest : List (List EcMove)} (hs : TakesBytes s)
    (ha : (latches ctx s).addrL = a) (hph : s.ec.ph = .rdAddr)
    (hm : s.env.moves = [] :: [.consume] :: [] :: [] :: rest) :
    ∃ tr t, readAddrPart ctx s = .next (.ok (s.ec.regs.read a), setResL ctx (s.ec.regs.read a) t) ∧
      PromptTo ctx s tr t ∧ sentIn tr = [(.data, a)] ∧ tr.length = 4 ∧
      t.ec = { Ec.answered a s.ec with obf := false } ∧ t.env.moves = rest := by
  obtain ⟨b, u, w, hwait, hsend, hw, hwb, hec, hmw⟩ :=
    waitSend_prompt ctx (readMidway true s) .data (fun u => (latches ctx u).addrL) hs hm
      (fun _ u hu => by rw [hu.latches]) (Ec.takes_readAddr s.cfg _ hs.ibf hs.corrupt hph) hs.ibf hs.corrupt
  rw [ha] at hw hec
  obtain ⟨tr, t, hrest, ht, hsent, hlen, hect, hmt⟩ := readDataPart_prompt ctx hwb (by rw [hec, Ec.answered]) hmw
  have hout : w.ec.outb = s.ec.regs.read a := by rw [hec, Ec.answered]
  rw [hout] at hrest
  exact ⟨_, t, by rw [readAddrPart, readWait_of_waitfor hwait, orReturn_ok, hsend, andThen_next, hrest],
    hw.trans ht, by rw [sentIn_waitSend, hsent], congrArg (· + 2) hlen, by rw [hect, hec], hmt⟩

/-- A prompt read: six accesses, the addressed register's byte, and nothing logged (R116, R52). -/
theorem ecRead_prompt (ctx : Ctx) (a : Byte) {s : State} {rest : List (List EcMove)} (ha : s.acquired = true)
    (hok : s.cfg.ok = true) (he : EcIdle s.ec) (hm : s.env.moves = promptRead ++ rest) :
    ∃ tr t, ecRead ctx a s = .next (.ok (s.ec.regs.read a), setResL ctx (s.ec.regs.read a) t) ∧
      t.trace = s.trace ++ tr ∧ sentIn tr = sentBytes s.cfg (.ecRead a) ∧ tr.length = 6 ∧ t.log = s.log ∧
      t.ec = { Ec.answered a s.ec with obf := false } ∧ t.env.moves = rest := by
  have hcfg : (startRead ctx .idle a s).cfg = s.cfg := by simp [startRead]
  have hec0 : (startRead ctx .idle a s).ec = s.ec := by simp [startRead]
  have htr0 : (startRead ctx .idle a s).trace = s.trace := by simp [startRead]
  have hlog0 : (startRead ctx .idle a s).log = s.log := by simp [startRead]
  have henv : (startRead ctx .idle a s).env = s.env := by simp [startRead]
  have ⟨hi, _, _, hc⟩ := he
  have hs0 : TakesBytes (startRead ctx .idle a s) :=
    ⟨by simp [startRead, ha], by rw [hcfg, hok], by rw [hec0, hi], by rw [hec0, hc]⟩
  obtain ⟨b, u, w, hwait, hsend, hw, hwb, hec, hmw⟩ :=
    waitSend_prompt ctx (readMidway false (startRead ctx .idle a s)) .sc (fun u => u.cfg.board.ecCmdRead) hs0
      (e := Ec.took s.cfg.board.ecCmdRead true .rdAddr s.ec) (rest := [] :: [.consume] :: [] :: [] :: rest)
      (by rw [henv, hm]; rfl)
      (fun _ u hu => by rw [hu.cfg, hcfg])
      (by rw [hcfg, hec0, Ec.takes_readCommand s.cfg he]) hi hc
  obtain ⟨tr, t, hrest, ht, hsent, hlen, hect, hmt⟩ :=
    readAddrPart_prompt ctx (a := a) hwb (by rw [hw.latches]; simp [startRead]) (by rw [hec, Ec.took]) hmw
  have hregs : w.ec.regs = s.ec.regs := by rw [hec, Ec.took]
  rw [hregs] at hrest
  have hall := hw.trans ht
  exact ⟨_, t, by rw [ecRead, readWait_of_waitfor hwait, orReturn_ok, hsend, andThen_next, hrest],
    by rw [hall.trace, htr0], by rw [sentIn_waitSend, hsent]; rfl, congrArg (· + 2) hlen,
    by rw [hall.log, hlog0], by rw [hect, hec]; rfl, hmt⟩

/-- Settles O23: the prompt read, issued in MAIN. -/
theorem promptEcAnswersTheRead : Obligations.PromptEcAnswersTheRead := by
  intro s a rest hs ha hok he hm
  obtain ⟨tr, t, ht, htr, hsent, hlen, hlog, hec, hmt⟩ := ecRead_prompt .main a ha hok he hm
  obtain ⟨hi, -, -, hc⟩ := he
  have hidle : EcIdle t.ec := by rw [hec]; exact ⟨hi, rfl, rfl, hc⟩
  have hregs : t.ec.regs = s.ec.regs := by rw [hec]; rfl
  exact ⟨tr, _, exec_ecRead_ok hs ht, rfl, htr, hlen, hsent, hidle, hlog, hmt, hregs⟩

end Sys2Proof.Machine
end

section
/-! # The codec: each decode by its value, and how the values relate (O25 to O30)

`rawCombined` and the five decodes are stated once as arithmetic on naturals; the bit operations and the
byte type are not seen after that. The order of `RPM_DEC` is a fact about `rpmK / c` alone. -/

namespace Sys2Proof.Machine

/-! ## Duty (O25, O26) -/

theorem dutyDec_val (raw : Byte) : (dutyDec raw).val = (200 * raw.toNat + 255) / 510 := rfl

theorem dutyEnc_toNat (p : Duty) : (dutyEnc p).toNat = p.val * 255 / 100 := by
  have hlt := p.isLt
  have hfits : p.val * 255 / 100 < 2 ^ 8 := by omega
  rw [dutyEnc, BitVec.toNat_ofNat, Nat.mod_eq_of_lt hfits]

/-- R134: the encoding loses less than one raw unit, which is less than half a percent. -/
theorem dutyDec_dutyEnc (p : Duty) : dutyDec (dutyEnc p) = p := by
  have hlt := p.isLt
  apply Fin.ext
  rw [dutyDec_val, dutyEnc_toNat]
  omega

/-- One percent is more than two raw units, so the floor separates neighbours. -/
theorem dutyEnc_toNat_lt {p q : Duty} (h : p < q) : (dutyEnc p).toNat < (dutyEnc q).toNat := by
  have hval : p.val < q.val := h
  rw [dutyEnc_toNat, dutyEnc_toNat]
  omega

/-- R130, R131 (a): the strict bound leaves no tie, since `200 * raw + 255` is odd. -/
theorem dutyDec_nearest (raw : Byte) : 2 * (255 * ((dutyDec raw).val : Int) - 100 * raw.toNat).natAbs < 255 := by
  rw [dutyDec_val]
  omega

/-- Settles O25: the quotient by 510 is less than half a unit away. -/
theorem dutyDecRoundsToNearest : Obligations.DutyDecRoundsToNearest :=
  fun raw _ hs => ⟨dutyDec raw, exec_dutyDec hs, dutyDec_nearest raw, dutyDec_val raw⟩

/-- Settles O26: the value of the encoding, its inverse and its order; the raw byte 1 decodes to 0, which
encodes to 0. -/
theorem dutyEncIsTheFloorAndRoundTrips : Obligations.DutyEncIsTheFloorAndRoundTrips := by
  refine ⟨fun p s hs => ⟨dutyEnc p, exec_dutyEnc hs, dutyEnc_toNat p, ?_⟩, fun _ _ => dutyEnc_toNat_lt,
    by decide, by decide, 1, by decide⟩
  rw [exec_dutyDec hs, dutyDec_dutyEnc]

/-! ## Fan speed (O27, O28) -/

/-- The count as a number: the two bytes do not overlap (R44). -/
theorem rawCombined_eq (hi lo : Byte) : rawCombined hi lo = 256 * hi.toNat + lo.toNat := by
  rw [rawCombined, ← Nat.shiftLeft_add_eq_or_of_lt lo.isLt, Nat.shiftLeft_eq, Nat.mul_comm]

theorem rawCombined_le (hi lo : Byte) : rawCombined hi lo ≤ 65535 := by
  have hhi := hi.isLt
  have hlo := lo.isLt
  rw [rawCombined_eq]
  omega

theorem rpmDec_of_pos {hi lo : Byte} (h : 0 < rawCombined hi lo) :
    rpmDec hi lo = Config.rpmK / rawCombined hi lo := if_pos h

theorem rpmDec_of_zero {hi lo : Byte} (h : rawCombined hi lo = 0) : rpmDec hi lo = 0 :=
  if_neg (by omega)

/-- Settles O27: a positive count divides, the zero count gives 0. -/
theorem rpmDecDividesTheCount : Obligations.RpmDecDividesTheCount := by
  intro hi lo s hs
  rw [exec_rpmDec hs, ← rawCombined_eq]
  split
  next hpos => rw [rpmDec_of_pos hpos]
  next hzero => rw [rpmDec_of_zero (by omega), Int.ofNat_zero]

/-- While the quotient by `c + 1` is at least `c`, one more copy of `c` fits into `k`. -/
theorem div_succ_lt_div {k c : Nat} (hc : 0 < c) (h : c * (c + 1) ≤ k) : k / (c + 1) < k / c := by
  have hle : c ≤ k / (c + 1) := (Nat.le_div_iff_mul_le c.succ_pos).mpr h
  have hmul : k / (c + 1) * (c + 1) ≤ k := Nat.div_mul_le_self k (c + 1)
  apply (Nat.le_div_iff_mul_le hc).mpr
  calc (k / (c + 1) + 1) * c = k / (c + 1) * c + c := Nat.succ_mul _ _
    _ ≤ k / (c + 1) * c + k / (c + 1) := Nat.add_le_add_left hle _
    _ = k / (c + 1) * (c + 1) := (Nat.mul_succ _ _).symm
    _ ≤ k := hmul

/-- R136 (c): up to the square root of the constant neighbours differ for size alone; the 16 counts
between it and the first tie are evaluated. -/
theorem rpmK_div_succ_lt {c : Nat} (hc : 0 < c) (h : c < 1484) : Config.rpmK / (c + 1) < Config.rpmK / c := by
  by_cases hroot : c ≤ 1467
  · exact div_succ_lt_div hc ((Nat.mul_le_mul hroot (Nat.succ_le_succ hroot)).trans (by decide))
  · interval_cases c <;> decide

theorem rpmK_div_lt {c d : Nat} (hc : 0 < c) (hcd : c < d) (hd : d ≤ 1484) : Config.rpmK / d < Config.rpmK / c :=
  calc Config.rpmK / d ≤ Config.rpmK / (c + 1) := Nat.div_le_div_left hcd c.succ_pos
    _ < Config.rpmK / c := rpmK_div_succ_lt hc (by omega)

/-- R136 (b): the counts 1 and 65535 bound every other. -/
theorem rpmDec_bounds {hi lo : Byte} (h : 0 < rawCombined hi lo) :
    32 ≤ rpmDec hi lo ∧ rpmDec hi lo ≤ 2156220 := by
  have hle : 32 * rawCombined hi lo ≤ Config.rpmK :=
    (Nat.mul_le_mul_left 32 (rawCombined_le hi lo)).trans (by decide)
  rw [rpmDec_of_pos h]
  exact ⟨(Nat.le_div_iff_mul_le h).mpr hle, Nat.div_le_self _ _⟩

/-- Settles O28: the examples are evaluated, the order is that of `rpmK / c`. -/
theorem rpmDecOrder : Obligations.RpmDecOrder := by
  refine ⟨by decide, by decide, by decide, by decide, by decide, by decide, by decide, by decide, by decide,
    fun _ _ => rpmDec_bounds, fun h l h' l' hpos hle => ?_, fun h l h' l' hpos hlt htop => ?_⟩
  · rw [rpmDec_of_pos hpos, rpmDec_of_pos (hpos.trans_le hle)]
    exact Nat.div_le_div_left hle hpos
  · rw [rpmDec_of_pos hpos, rpmDec_of_pos (hpos.trans hlt)]
    exact rpmK_div_lt hpos hlt htop

/-! ## Temperature and snapshot (O29, O30) -/

/-- Settles O29: the result is the byte itself, extended with zeros. -/
theorem tempDecIsUnsigned : Obligations.TempDecIsUnsigned :=
  fun _ _ hs => exec_tempDec hs

/-- Settles O30: the decode of the five bytes, and `imageAt_image` for the image of the registers. -/
theorem snapDecodeReadsTheFiveRegisters : Obligations.SnapDecodeReadsTheFiveRegisters :=
  ⟨fun _ _ hs => exec_snapDecode hs, imageAt_image⟩

end Sys2Proof.Machine
end

section
/-! # The Thermal Control Algorithm: snapping, the table, smoothing, convergence (O31 to O35)

The model's four functions are described once: `snapTo` by the level near its operand, `threshold` by the
bands a target belongs to, `smooth` by its two branches, `idealTick` by the duty it leaves. After that
progress, range and convergence are arithmetic on the levels. -/

namespace Sys2Proof.Machine

/-! ## `IDENTIFY_DUTY` (O31) -/

theorem snapTo_of_far {levels : List Int} {x : Int} (h : ∀ level ∈ levels, Config.snapTol < (x - level).natAbs) :
    snapTo levels x = x := by
  induction levels with
  | nil => rfl
  | cons l rest ih =>
    obtain ⟨hl, hrest⟩ := List.forall_mem_cons.mp h
    rw [snapTo, if_neg (by omega), ih hrest]

/-- R151 (a): among levels more than two tolerances apart only one is near, so the search order does not
matter. -/
theorem snapTo_of_near {levels : List Int} {x level : Int}
    (hapart : levels.Pairwise fun a b => 2 * Config.snapTol < (a - b).natAbs) (hmem : level ∈ levels)
    (hnear : (x - level).natAbs ≤ Config.snapTol) : snapTo levels x = level := by
  induction levels with
  | nil => exact absurd hmem List.not_mem_nil
  | cons l rest ih =>
    obtain ⟨hl, hrest⟩ := List.pairwise_cons.mp hapart
    rcases List.mem_cons.mp hmem with rfl | hmem
    · rw [snapTo, if_pos hnear]
    · have hfar := hl level hmem
      rw [snapTo, if_neg (by omega), ih hrest hmem]

theorem identifyDuty_of_near {x level : Int} (hmem : level ∈ Config.canon) (hnear : (x - level).natAbs ≤ 1) :
    identifyDuty x = level :=
  snapTo_of_near (by decide) hmem hnear

theorem identifyDuty_of_far {x : Int} (h : ∀ level ∈ Config.canon, 1 < (x - level).natAbs) : identifyDuty x = x :=
  snapTo_of_far h

/-- Settles O31: a level within 1 is the only one, and without one the search runs out. -/
theorem identifyDutySnapsWithinOne : Obligations.IdentifyDutySnapsWithinOne :=
  fun x _ hs => ⟨identifyDuty x, exec_identifyDuty hs, fun _ => identifyDuty_of_near, identifyDuty_of_far⟩

/-- The levels written out, so that `omega` sees which duties are moved and by how much (R151 (b)). -/
theorem identifyDuty_cases (x : Int) :
    identifyDuty x = x ∨ (x - identifyDuty x).natAbs ≤ 1 ∧
      (identifyDuty x = 0 ∨ identifyDuty x = 16 ∨ identifyDuty x = 30 ∨ identifyDuty x = 40 ∨
        identifyDuty x = 65 ∨ identifyDuty x = 90 ∨ identifyDuty x = 100) := by
  by_cases h : ∃ level ∈ Config.canon, (x - level).natAbs ≤ 1
  · obtain ⟨level, hmem, hnear⟩ := h
    rw [identifyDuty_of_near hmem hnear]
    exact .inr ⟨hnear, by simpa using hmem⟩
  · push Not at h
    exact .inl (identifyDuty_of_far h)

/-! ## `THRESHOLD` (O32) -/

/-- Settles O32: in each band one row of R153 is the first that applies. -/
theorem thresholdByBand : Obligations.ThresholdByBand := by
  intro t x s hs n r
  have hbands : n ≤ 50 ∨ (51 ≤ n ∧ n ≤ 54) ∨ (55 ≤ n ∧ n ≤ 60) ∨ (61 ≤ n ∧ n ≤ 64) ∨ (65 ≤ n ∧ n ≤ 70) ∨
      (71 ≤ n ∧ n ≤ 74) ∨ (75 ≤ n ∧ n ≤ 80) ∨ (81 ≤ n ∧ n ≤ 84) ∨ n = 85 ∨ 86 ≤ n := by omega
  have hcut (a b : Int) (_ : a ≤ b) : x < a ∨ (a ≤ x ∧ x < b) ∨ b ≤ x := by omega
  have hrow : threshold n x = r := by
    unfold r
    rcases hbands with h | h | h | h | h | h | h | h | h | h
    · simp (disch := omega) only [threshold, if_pos, if_neg]
    · rcases lt_or_ge x 17 with hx | hx <;> simp (disch := omega) only [threshold, if_pos, if_neg]
    · rcases lt_or_ge x 17 with hx | hx <;> simp (disch := omega) only [threshold, if_pos, if_neg]
    · rcases hcut 17 30 (by decide) with hx | hx | hx <;> simp (disch := omega) only [threshold, if_pos, if_neg]
    · rcases lt_or_ge x 30 with hx | hx <;> simp (disch := omega) only [threshold, if_pos, if_neg]
    · rcases hcut 30 40 (by decide) with hx | hx | hx <;> simp (disch := omega) only [threshold, if_pos, if_neg]
    · rcases lt_or_ge x 40 with hx | hx <;> simp (disch := omega) only [threshold, if_pos, if_neg]
    · rcases hcut 40 65 (by decide) with hx | hx | hx <;> simp (disch := omega) only [threshold, if_pos, if_neg]
    · rcases lt_or_ge x 65 with hx | hx <;> simp (disch := omega) only [threshold, if_pos, if_neg]
    · rcases lt_or_ge x 65 with hx | hx <;> simp (disch := omega) only [threshold, if_pos, if_neg]
  rw [← hrow, exec_threshold hs]

/-- The temperatures at which each target is chosen (R154, R155): the row that gave it, and the rows before
that did not apply. -/
theorem threshold_duty_cases {t s : Int} {target : Duty} (h : threshold t s = .duty target) :
    (target = 0 ∧ t ≤ 50) ∨ (target = 17 ∧ 51 ≤ t ∧ t ≤ 64) ∨ (target = 30 ∧ 61 ≤ t ∧ t ≤ 74) ∨
      (target = 40 ∧ 71 ≤ t ∧ t ≤ 84) ∨ (target = 65 ∧ 81 ≤ t) := by
  simp only [threshold, ite_eq_iff, Target.duty.injEq, reduceCtorEq, and_false, or_false, @eq_comm _ _ target] at h
  obtain h | ⟨h1, h | ⟨h2, h | ⟨h3, h | ⟨h4, h | ⟨h5, h | ⟨h6, h | ⟨h7, h | ⟨h8, h⟩⟩⟩⟩⟩⟩⟩⟩ := h <;> simp [h] <;> omega

/-- R155: no band sends a target it has chosen on to another one, although 17 is read back as 16. -/
theorem threshold_target_stable {t s : Int} {target : Duty} (h : threshold t s = .duty target) :
    threshold t (identifyDuty target.val) = .noChange ∨ threshold t (identifyDuty target.val) = .duty target := by
  obtain ⟨rfl, ht⟩ | ⟨rfl, hlo, hhi⟩ | ⟨rfl, hlo, hhi⟩ | ⟨rfl, hlo, hhi⟩ | ⟨rfl, hlo⟩ := threshold_duty_cases h
  · exact .inr (by simp (disch := omega) only [threshold, if_pos, if_neg])
  · rw [show identifyDuty ((17 : Duty).val : Int) = 16 by decide]
    by_cases hhold : t ≤ 54
    · exact .inl (by simp (disch := omega) only [threshold, if_neg])
    · exact .inr (by simp (disch := omega) only [threshold, if_pos, if_neg])
  · rw [show identifyDuty ((30 : Duty).val : Int) = 30 by decide]
    by_cases hhold : t ≤ 70
    · exact .inr (by simp (disch := omega) only [threshold, if_pos, if_neg])
    · exact .inl (by simp (disch := omega) only [threshold, if_neg])
  · rw [show identifyDuty ((40 : Duty).val : Int) = 40 by decide]
    by_cases hhold : t ≤ 80
    · exact .inr (by simp (disch := omega) only [threshold, if_pos, if_neg])
    · exact .inl (by simp (disch := omega) only [threshold, if_neg])
  · rw [show identifyDuty ((65 : Duty).val : Int) = 65 by decide]
    by_cases hhold : t ≤ 85
    · exact .inr (by simp (disch := omega) only [threshold, if_pos, if_neg])
    · exact .inl (by simp (disch := omega) only [threshold, if_neg])

/-! ## `NEXT_DUTY` (O33) -/

theorem maxTemp_toNat (cpu gpu : Byte) : (maxTemp cpu gpu).toNat = max cpu.toNat gpu.toNat := by
  unfold maxTemp
  split <;> omega

theorem nextDuty_of_noChange {cpu gpu : Byte} {cur : Duty}
    (h : threshold (maxTemp cpu gpu).toNat (identifyDuty cur.val) = .noChange) : nextDuty cpu gpu cur = .noChange := by
  rw [nextDuty, h]

theorem nextDuty_of_duty {cpu gpu : Byte} {cur target : Duty}
    (h : threshold (maxTemp cpu gpu).toNat (identifyDuty cur.val) = .duty target) :
    nextDuty cpu gpu cur = .duty (smooth target cur) := by
  rw [nextDuty, h]

theorem smoothed_eq (target cur : Duty) :
    smoothed target cur = identifyDuty cur.val + ((target.val : Int) - cur.val) / 2 := rfl

theorem smooth_of_escalation {target cur : Duty} (hup : cur.val < target.val)
    (hgap : 2 < (target.val : Int) - smoothed target cur) : ((smooth target cur).val : Int) = smoothed target cur := by
  have hsnap := identifyDuty_cases cur.val
  have hbase := smoothed_eq target cur
  rw [smooth, dif_pos ⟨hup, hgap⟩, Int.toNat_of_nonneg (by omega)]

theorem smooth_of_direct {target cur : Duty}
    (h : target.val ≤ cur.val ∨ (target.val : Int) - smoothed target cur ≤ 2) : smooth target cur = target := by
  rw [smooth, dif_neg]
  rintro ⟨hup, hgap : 2 < (target.val : Int) - smoothed target cur⟩
  omega

/-- Settles O33: the target comes from the table, and `smooth` has the two branches of R156. -/
theorem nextDutySmoothsEscalations : Obligations.NextDutySmoothsEscalations := by
  intro cpu gpu cur s hs
  rw [← maxTemp_toNat]
  exact ⟨nextDuty cpu gpu cur, exec_nextDuty hs, nextDuty_of_noChange, fun target h =>
    ⟨smooth target cur, nextDuty_of_duty h, smooth_of_escalation, smooth_of_direct⟩⟩

/-! ## Range and progress (O34) -/

theorem nextDuty_cases (cpu gpu : Byte) (cur : Duty) :
    nextDuty cpu gpu cur = .noChange ∨
      ∃ target, threshold (maxTemp cpu gpu).toNat (identifyDuty cur.val) = .duty target ∧
        nextDuty cpu gpu cur = .duty (smooth target cur) := by
  cases h : threshold (maxTemp cpu gpu).toNat (identifyDuty cur.val) with
  | noChange => exact .inl (nextDuty_of_noChange h)
  | duty target => exact .inr ⟨target, rfl, nextDuty_of_duty h⟩

/-- The values of the targets, for `omega`. -/
theorem threshold_duty_val {t s : Int} {target : Duty} (h : threshold t s = .duty target) :
    target.val = 0 ∨ target.val = 17 ∨ target.val = 30 ∨ target.val = 40 ∨ target.val = 65 := by
  rcases threshold_duty_cases h with ⟨rfl, _⟩ | ⟨rfl, _⟩ | ⟨rfl, _⟩ | ⟨rfl, _⟩ | ⟨rfl, _⟩ <;> decide

/-- R158, the one direction: half the way to the lowest target is 8, and a smoothed value stays 3 below. -/
theorem smooth_range {t s : Int} {target cur : Duty} (h : threshold t s = .duty target) :
    (smooth target cur).val = 0 ∨ (8 ≤ (smooth target cur).val ∧ (smooth target cur).val ≤ 62) ∨
      (smooth target cur).val = 65 := by
  have htarget := threshold_duty_val h
  by_cases hsm : cur.val < target.val ∧ 2 < (target.val : Int) - smoothed target cur
  · have hval := smooth_of_escalation hsm.1 hsm.2
    have hbase := smoothed_eq target cur
    have hsnap := identifyDuty_cases cur.val
    omega
  · rw [smooth_of_direct (by omega)]
    omega

/-- R157 (c): a base snapped down by 1 does not cost the progress, since no duty 3 below a target is
snapped. -/
theorem smooth_progress {t s : Int} {target cur : Duty} (h : threshold t s = .duty target) (hup : cur < target) :
    cur < smooth target cur ∧ smooth target cur ≤ target := by
  have htarget := threshold_duty_val h
  rw [Fin.lt_def] at hup ⊢
  rw [Fin.le_def]
  by_cases hgap : 2 < (target.val : Int) - smoothed target cur
  · have hval := smooth_of_escalation hup hgap
    have hbase := smoothed_eq target cur
    have hsnap := identifyDuty_cases cur.val
    omega
  · rw [smooth_of_direct (by omega)]
    omega

/-- An even duty below 64 is not snapped, and the one that lies far enough below half the target is smoothed
to the wanted value. -/
theorem exists_nextDuty_smoothed {cpu : Byte} {target n : Duty} {v : Nat} (hv : target.val = v)
    (hrow : ∀ s : Int, s < v → threshold cpu.toNat s = .duty target) (htop : v ≤ 65) (hlo : v / 2 ≤ n.val)
    (hhi : n.val + 3 ≤ v) : ∃ (cpu gpu : Byte) (cur : Duty), nextDuty cpu gpu cur = .duty n := by
  obtain ⟨cur, hcur⟩ : ∃ cur : Duty, cur.val = 2 * (n.val - v / 2) := ⟨⟨_, by omega⟩, rfl⟩
  have hsnap := identifyDuty_cases cur.val
  have hbase := smoothed_eq target cur
  have hval := smooth_of_escalation (target := target) (cur := cur) (by omega) (by omega)
  have hthr : threshold (maxTemp cpu cpu).toNat (identifyDuty cur.val) = .duty target := by
    rw [maxTemp_toNat, Nat.max_self]
    exact hrow _ (by omega)
  refine ⟨cpu, cpu, cur, ?_⟩
  rw [nextDuty_of_duty hthr]
  exact congrArg Target.duty (Fin.ext (by omega))

/-- The escalation rows of R153, each at its temperature. -/
theorem threshold_escalates :
    (∀ s : Int, s < 17 → threshold 55 s = .duty 17) ∧ (∀ s : Int, s < 30 → threshold 65 s = .duty 30) ∧
      (∀ s : Int, s < 40 → threshold 75 s = .duty 40) ∧ (∀ s : Int, s < 65 → threshold 85 s = .duty 65) := by
  refine ⟨?_, ?_, ?_, ?_⟩ <;> intro s hs <;> simp (disch := omega) only [threshold, if_pos, if_neg]

/-- R158, the other direction: the ramps to the four targets overlap. -/
theorem exists_nextDuty_of_mem_range {n : Duty} (hlo : 8 ≤ n.val) (hhi : n.val ≤ 62) :
    ∃ (cpu gpu : Byte) (cur : Duty), nextDuty cpu gpu cur = .duty n := by
  obtain ⟨h17, h30, h40, h65⟩ := threshold_escalates
  have hramp : n.val ≤ 14 ∨ (15 ≤ n.val ∧ n.val ≤ 27) ∨ (28 ≤ n.val ∧ n.val ≤ 37) ∨ 38 ≤ n.val := by omega
  rcases hramp with hn | hn | hn | hn
  · exact exists_nextDuty_smoothed (cpu := 55) (v := 17) rfl h17 (by omega) (by omega) (by omega)
  · exact exists_nextDuty_smoothed (cpu := 65) (v := 30) rfl h30 (by omega) (by omega) (by omega)
  · exact exists_nextDuty_smoothed (cpu := 75) (v := 40) rfl h40 (by omega) (by omega) (by omega)
  · exact exists_nextDuty_smoothed (cpu := 85) (v := 65) rfl h65 (by omega) (by omega) (by omega)

/-- Settles O34: the ranges of `smooth` and the ramps that reach them; 0 and 65 are targets kept. -/
theorem nextDutyRangeAndProgress : Obligations.NextDutyRangeAndProgress := by
  refine ⟨fun r => ⟨?_, ?_⟩, fun cpu gpu cur target n h hn => ?_⟩
  · rintro ⟨cpu, gpu, cur, rfl⟩
    rcases nextDuty_cases cpu gpu cur with h | ⟨target, ht, h⟩
    · exact .inl h
    · exact .inr ⟨_, h, smooth_range ht⟩
  · rintro (rfl | ⟨n, rfl, hn | ⟨hlo, hhi⟩ | hn⟩)
    · exact ⟨54, 54, 0, by decide⟩
    · obtain rfl : n = 0 := Fin.ext hn
      exact ⟨50, 50, 0, by decide⟩
    · exact exists_nextDuty_of_mem_range hlo hhi
    · obtain rfl : n = 65 := Fin.ext hn
      exact ⟨85, 85, 65, by decide⟩
  · rw [nextDuty_of_duty h, Target.duty.injEq] at hn
    subst hn
    exact ⟨smooth_progress h, fun hle => smooth_of_direct (.inl hle)⟩

/-! ## Convergence (O35) -/

/-- The algorithm keeps a duty at the given temperatures (R160). -/
def KeepsDuty (cpu gpu : Byte) (d : Duty) : Prop := nextDuty cpu gpu d = .noChange ∨ nextDuty cpu gpu d = .duty d

/-- What ideal read-back keeps of `autoDuty`: it is the current duty, or still the 0 it starts with (D14). -/
def TracksAutoDuty (c : ControlState) : Prop := c.autoDuty = c.curDuty.val ∨ c.autoDuty = 0

/-- From some tick on the current duty is one that the algorithm keeps (R160). -/
def Settles (c : ControlState) : Prop :=
  ∃ (k : Nat) (d : Duty), KeepsDuty c.cpuTemp c.gpuTemp d ∧ ∀ m, k ≤ m → (idealTicks m c).curDuty = d

theorem keepsDuty_of_threshold {cpu gpu : Byte} {d : Duty}
    (h : threshold (maxTemp cpu gpu).toNat (identifyDuty d.val) = .noChange ∨
      threshold (maxTemp cpu gpu).toNat (identifyDuty d.val) = .duty d) : KeepsDuty cpu gpu d :=
  h.imp nextDuty_of_noChange fun h => by rw [nextDuty_of_duty h, smooth_of_direct (.inl le_rfl)]

theorem idealTick_of_noChange {c : ControlState} (h : nextDuty c.cpuTemp c.gpuTemp c.curDuty = .noChange) :
    idealTick c = c := by
  rw [idealTick, h]

theorem idealTick_of_duty {c : ControlState} {n : Duty} (h : nextDuty c.cpuTemp c.gpuTemp c.curDuty = .duty n) :
    idealTick c = if wantsWrite c n then { c with curDuty := n, autoDuty := n.val } else c := by
  rw [idealTick, h]

/-- A tick leaves everything as it is or records a written duty. -/
theorem idealTick_cases (c : ControlState) :
    idealTick c = c ∨ ∃ n : Duty, idealTick c = { c with curDuty := n, autoDuty := n.val } := by
  cases h : nextDuty c.cpuTemp c.gpuTemp c.curDuty with
  | noChange => exact .inl (idealTick_of_noChange h)
  | duty n =>
    rw [idealTick_of_duty h]
    split
    · exact .inr ⟨n, rfl⟩
    · exact .inl rfl

@[simp] theorem idealTick_cpuTemp (c : ControlState) : (idealTick c).cpuTemp = c.cpuTemp := by
  rcases idealTick_cases c with h | ⟨n, h⟩ <;> rw [h]

@[simp] theorem idealTick_gpuTemp (c : ControlState) : (idealTick c).gpuTemp = c.gpuTemp := by
  rcases idealTick_cases c with h | ⟨n, h⟩ <;> rw [h]

theorem TracksAutoDuty.idealTick {c : ControlState} (htr : TracksAutoDuty c) : TracksAutoDuty (idealTick c) := by
  rcases idealTick_cases c with h | ⟨n, h⟩ <;> rw [h]
  · exact htr
  · exact .inl rfl

theorem not_wantsWrite_iff {c : ControlState} {n : Duty} :
    ¬wantsWrite c n ↔ (n.val : Int) = c.autoDuty ∧ (n = 0 → c.curDuty = 0) := by
  simp [wantsWrite]

/-- Where no write is issued the selected duty is the current one already, so the tick leaves it in either
case (R182). -/
theorem idealTick_curDuty {c : ControlState} {n : Duty} (htr : TracksAutoDuty c)
    (h : nextDuty c.cpuTemp c.gpuTemp c.curDuty = .duty n) : (idealTick c).curDuty = n := by
  rw [idealTick_of_duty h]
  split
  next => rfl
  next hskip =>
    obtain ⟨hauto, hstop⟩ := not_wantsWrite_iff.mp hskip
    rcases htr with hcur | hzero
    · exact Fin.ext (by omega)
    · obtain rfl : n = 0 := Fin.ext (Int.ofNat_inj.mp (hauto.trans hzero))
      exact hstop rfl

theorem idealTick_curDuty_of_keeps {c : ControlState} (hk : KeepsDuty c.cpuTemp c.gpuTemp c.curDuty) :
    (idealTick c).curDuty = c.curDuty := by
  rcases hk with h | h
  · rw [idealTick_of_noChange h]
  · rw [idealTick_of_duty h]
    split <;> rfl

theorem idealTicks_curDuty_of_keeps {c : ControlState} (hk : KeepsDuty c.cpuTemp c.gpuTemp c.curDuty) (m : Nat) :
    (idealTicks m c).curDuty = c.curDuty := by
  induction m generalizing c with
  | zero => rfl
  | succ m ih =>
    have hcur := idealTick_curDuty_of_keeps hk
    exact (ih (by simpa [hcur] using hk)).trans hcur

theorem settles_of_keeps {c : ControlState} (hk : KeepsDuty c.cpuTemp c.gpuTemp c.curDuty) : Settles c :=
  ⟨0, c.curDuty, hk, fun m _ => idealTicks_curDuty_of_keeps hk m⟩

theorem settles_of_idealTick {c : ControlState} (h : Settles (idealTick c)) : Settles c := by
  obtain ⟨k, d, hk, hd⟩ := h
  refine ⟨k + 1, d, by simpa using hk, fun m hm => ?_⟩
  obtain ⟨j, rfl⟩ := Nat.exists_eq_succ_of_ne_zero (Nat.ne_zero_of_lt hm)
  exact hd j (Nat.le_of_succ_le_succ hm)

/-- A tick keeps the duty, reaches a target that is kept, or climbs (R155, R157). -/
theorem keeps_or_climbs {c : ControlState} (htr : TracksAutoDuty c) :
    KeepsDuty c.cpuTemp c.gpuTemp c.curDuty ∨ KeepsDuty c.cpuTemp c.gpuTemp (idealTick c).curDuty ∨
      c.curDuty < (idealTick c).curDuty := by
  rcases nextDuty_cases c.cpuTemp c.gpuTemp c.curDuty with h | ⟨target, ht, h⟩
  · exact .inl (.inl h)
  · rw [idealTick_curDuty htr h]
    rcases lt_or_ge c.curDuty target with hup | hdown
    · exact .inr (.inr (smooth_progress ht hup).1)
    · rw [smooth_of_direct (.inl hdown)]
      exact .inr (.inl (keepsDuty_of_threshold (threshold_target_stable ht)))

/-- R160: a duty cannot climb for ever. -/
theorem settles_of_tracks {c : ControlState} (htr : TracksAutoDuty c) : Settles c := by
  rcases keeps_or_climbs htr with hk | hk | hup
  · exact settles_of_keeps hk
  · exact settles_of_idealTick (settles_of_keeps (by simpa using hk))
  · exact settles_of_idealTick (settles_of_tracks htr.idealTick)
termination_by 101 - c.curDuty.val
decreasing_by
  rw [Fin.lt_def] at hup
  omega

/-- Settles O35: `autoDuty` starts at 0, which `TracksAutoDuty` allows. -/
theorem loopConverges : Obligations.LoopConverges :=
  fun temp start =>
    settles_of_tracks (c := { cpuTemp := temp, gpuTemp := temp, curDuty := start, autoDuty := 0 }) (.inr rfl)

end Sys2Proof.Machine
end

section
/-! # Start-up and the head of the loop (O6, O41, O47)

Before the guard is armed, and after it is taken, no stop request is accepted: a step of the machine is then
MAIN's, and one lemma says so for each of these statements. -/

namespace Sys2Proof.Machine

/-- Where no stop request is accepted and the guard is not active, a step is MAIN's (R211, R213). -/
theorem step_main {s t : State} (hissue : s.issue = none) (hg : ∀ pos, s.g ≠ .active pos)
    (hstop : stopAcceptable s = false) (h : mainStep s = .next ((), t)) : step s = .next t := by
  have ht : s.top ≠ .exit := fun he => by simp [mainStep, he] at h
  have hseq : sequencerStep s = mainStep s := by
    cases hgs : s.g with
    | active pos => exact absurd hgs (hg pos)
    | idle | done => simp [sequencerStep, hgs, hstop]
  rw [step_sequencer ht hissue, hseq, h]
  rfl

/-- No stop request is accepted before the guard is armed (R211). -/
theorem stopAcceptable_unarmed {s : State} (h : s.armed = false) : stopAcceptable s = false := by
  simp [stopAcceptable, h]

/-- No stop request is accepted once one was (R211). -/
theorem stopAcceptable_taken {s : State} (h : s.guardTaken = true) : stopAcceptable s = false := by
  simp [stopAcceptable, h]

/-- Nothing stands between MAIN and its next step: no issued operation, and a guard that is idle and not
armed (R211). -/
structure Quiet (s : State) : Prop where
  issue : s.issue = none
  g : s.g = .idle
  armed : s.armed = false

theorem Quiet.step {s t : State} (hq : Quiet s) (h : mainStep s = .next ((), t)) : step s = .next t :=
  step_main hq.issue (fun pos hpos => by rw [hq.g] at hpos; cases hpos) (stopAcceptable_unarmed hq.armed) h

/-! ## The host command (O6) -/

/-- The step at `T_START` takes the host command (R170). -/
theorem step_start {s : State} (hq : Quiet s) (ht : s.top = .start) :
    step s = .next (ecAdvance (takeCommand (decodeInvocation s.invocation) s).2) :=
  hq.step (by simp only [mainStep, ht]; rfl)

/-- Settles O6: the cases are those of `takeCommand`. -/
theorem startAdmitsTheHostCommand : Obligations.StartAdmitsTheHostCommand := by
  intro s ht hissue hg harmed
  have hstep := step_start ⟨hissue, hg, harmed⟩ ht
  refine ⟨fun hc => ?_, fun hc hp => ?_, fun hc hp => ?_, fun n hc hp => ?_, fun hc hp => ?_⟩
  · rw [hstep, hc]; rfl
  · rw [hstep, takeCommand_denied hc hp]; rfl
  · rw [hstep, hc, takeCommand_ok HostCommand.noConfusion hp]; rfl
  · rw [hstep, hc, takeCommand_ok HostCommand.noConfusion hp]; rfl
  · rw [hstep, hc, takeCommand_ok HostCommand.noConfusion hp]; rfl

/-! ## The start of the loop (O41) -/

/-- The state in which a command that is not refused leaves start-up (R170). -/
def entered (c : HostCommand) (s : State) : State :=
  ecAdvance { s with acquired := true, cmd := c, top := (modeOf c).1, phase := (modeOf c).2 }

theorem ecAdvance_takeCommand {c : HostCommand} {s : State} (hc : c ≠ .invalid) (hp : s.priv = true) :
    ecAdvance (takeCommand c s).2 = entered c s := by
  rw [takeCommand_ok hc hp]
  rfl

/-- `AUTO` as a whole, up to the head of the loop (R178). -/
theorem exec_auto_entered {s : State} (hs : s.top ≠ .exit) (hp : s.priv = true) :
    exec .auto s = .next { ecAdvance (enterLoop (entered .auto s)) with ret := .ok } := by
  refine exec_auto hs ?_
  rw [runAuto, takeCommand_ok HostCommand.noConfusion hp]
  rfl

/-- Settles O41: the command is taken, then the loop entered. -/
theorem autoStartsTheLoop : Obligations.AutoStartsTheLoop := fun _ ht hp => exec_auto_entered ht hp

/-! ## The head of the loop (O47) -/

/-- With the Running Flag set the pass goes on (R180). -/
theorem headStep_running {s : State} (h : s.run = true) : headStep s = { s with phase := .lSnap } := by
  rw [headStep, if_pos h]

/-- With the Running Flag cleared the run ends (R186). -/
theorem headStep_cleared {s : State} (h : s.run = false) : headStep s = writeExit 0 s := by
  rw [headStep, h, if_neg Bool.false_ne_true]

theorem runTick_cleared {s : State} (h : s.run = false) : runTick s = .next ((), ecAdvance (writeExit 0 s)) := by
  rw [runTick, h, if_neg Bool.false_ne_true, headStep_cleared h]

/-- Settles O47: an armed loop whose Running Flag is cleared has its guard taken (R186), which is then idle no
more. -/
theorem loopEndsAtItsHead : Obligations.LoopEndsAtItsHead := by
  refine ⟨fun s ht hrun => exec_tick ht (runTick_cleared hrun), ?_⟩
  intro s hi hissue ht harmed hphase hrun hactive
  have htaken : s.guardTaken = true := hi.runCleared harmed hrun
  have hmain : mainStep s = .next ((), ecAdvance (writeExit 0 s)) := by
    simp only [mainStep, ht, phaseStep, hphase, headStep_cleared hrun]
    rfl
  refine ⟨?_, step_main hissue hactive (stopAcceptable_taken htaken) hmain⟩
  cases hg : s.g with
  | idle => exact absurd hg (hi.takenGuard.mp htaken)
  | active pos => exact absurd hg (hactive pos)
  | done => rfl

end Sys2Proof.Machine
end

section
/-! # The polled snapshot and the one-shot modes (O38, O39, O40)

The five reads are followed as one list, the bytes read collected beside the registers they come from. The
report that ends both one-shot modes is described once, and each mode is that report after its own start. -/

namespace Sys2Proof.Machine

/-! ## Two stretches of a transaction -/

theorem FailFastTrace.append {c : Config} {parts parts' : List Part} {failed : Option TimeoutInfo}
    {tr tr' : List Access} (h : FailFastTrace c parts none tr) (h' : FailFastTrace c parts' failed tr') :
    FailFastTrace c (parts ++ parts') failed (tr ++ tr') := by
  induction parts generalizing tr with
  | nil =>
    obtain ⟨-, rfl⟩ := h
    exact h'
  | cons p rest ih =>
    obtain ⟨hno, -⟩ | ⟨w, tr1, hw, rfl, hrest⟩ := h
    · cases hno
    · exact .inr ⟨w, tr1 ++ tr', hw, by simp, ih hrest⟩

/-- What would have followed a failure is not made. -/
theorem FailFastTrace.append_failed {c : Config} {parts : List Part} {i : TimeoutInfo} {tr : List Access}
    (h : FailFastTrace c parts (some i) tr) (parts' : List Part) : FailFastTrace c (parts ++ parts') (some i) tr := by
  induction parts generalizing tr with
  | nil =>
    obtain ⟨hno, -⟩ := h
    cases hno
  | cons p rest ih =>
    obtain hbad | ⟨w, tr1, hw, rfl, hrest⟩ := h
    · exact .inl hbad
    · exact .inr ⟨w, tr1, hw, rfl, ih hrest⟩

theorem SoftTrace.append {c : Config} {ctx : Ctx} {parts parts' : List Part} {tr tr' : List Access}
    {evs evs' : List Event} (h : SoftTrace c ctx parts tr evs) (h' : SoftTrace c ctx parts' tr' evs') :
    SoftTrace c ctx (parts ++ parts') (tr ++ tr') (evs ++ evs') := by
  induction parts generalizing tr evs with
  | nil =>
    obtain ⟨rfl, rfl⟩ := h
    exact h'
  | cons p rest ih =>
    obtain ⟨w, tr1, evs0, evs1, hw, rfl, rfl, hrest⟩ := h
    exact ⟨w, tr1 ++ tr', evs0, evs1 ++ evs', hw, by simp, by simp, ih hrest⟩

/-- The trace, the events and the failure of a stretch of reads, by policy (R118). -/
def ReadTrace (c : Config) (parts : List Part) (failed : Option TimeoutInfo) (tr : List Access) (evs : List Event) :
    Prop :=
  (c.readPolicy = .soft ∧ failed = none ∧ SoftTrace c .main parts tr evs) ∨
  (c.readPolicy = .hard ∧ evs = [] ∧ FailFastTrace c parts failed tr)

theorem ReadTrace.nil (c : Config) : ReadTrace c [] none [] [] := by
  cases h : c.readPolicy with
  | soft => exact .inl ⟨h, rfl, rfl, rfl⟩
  | hard => exact .inr ⟨h, rfl, rfl, rfl⟩

theorem ReadTrace.append {c : Config} {parts parts' : List Part} {failed : Option TimeoutInfo}
    {tr tr' : List Access} {evs evs' : List Event} (h : ReadTrace c parts none tr evs)
    (h' : ReadTrace c parts' failed tr' evs') :
    ReadTrace c (parts ++ parts') failed (tr ++ tr') (evs ++ evs') := by
  obtain ⟨hp, -, hs⟩ | ⟨hp, rfl, hf⟩ := h <;> obtain ⟨hp', hn, hs'⟩ | ⟨hp', rfl, hf'⟩ := h'
  · exact .inl ⟨hp, hn, hs.append hs'⟩
  · rw [hp] at hp'; cases hp'
  · rw [hp] at hp'; cases hp'
  · exact .inr ⟨hp, rfl, hf.append hf'⟩

theorem ReadTrace.append_failed {c : Config} {parts : List Part} {i : TimeoutInfo} {tr : List Access}
    {evs : List Event} (h : ReadTrace c parts (some i) tr evs) (parts' : List Part) :
    ReadTrace c (parts ++ parts') (some i) tr evs := by
  obtain ⟨-, hno, -⟩ | ⟨hp, he, hf⟩ := h
  · cases hno
  · exact .inr ⟨hp, he, hf.append_failed parts'⟩

/-- A read that ends in a timeout has logged nothing. -/
theorem ReadTrace.silent {c : Config} {parts : List Part} {i : TimeoutInfo} {tr : List Access} {evs : List Event}
    (h : ReadTrace c parts (some i) tr evs) : evs = [] := by
  obtain ⟨-, hno, -⟩ | ⟨-, he, -⟩ := h
  · cases hno
  · exact he

/-! ## The polled reads (R172) -/

/-- What polled reads leave alone: all but MAIN's latches, of which the data latch is kept, the bytes read, the
EC, the inputs used up, the trace and the log. -/
def PollFrame (s t : State) : Prop :=
  t = { s with main := { t.main with dataL := s.main.dataL }, raws := t.raws, ec := t.ec, env := t.env,
               trace := t.trace, log := t.log }

theorem PollFrame.trans {s t u : State} (h : PollFrame s t) (h' : PollFrame t u) : PollFrame s u := by
  unfold PollFrame at *
  rw [h', h]

/-- No handshake of MAIN is in progress, and no timeout of one is left over. -/
def MainIdle (s : State) : Prop := s.main.hs = .idle ∧ s.main.late = false

/-- The parts of reads of registers that gave the bytes beside them. -/
def readsParts (c : Config) (xs : List (Polled × Byte)) : List Part :=
  xs.flatMap fun x => readParts c (polledReg c x.1) x.2

/-- Bytes kept, each in the place of its register. -/
def keepReads (xs : List (Polled × Byte)) (w : Raws) : Raws := xs.foldl (fun w x => setRaw x.1 x.2 w) w

/-- What polled reads `xs` did, complete or up to the wait that failed. -/
structure ReadsDone (s : State) (xs : List (Polled × Byte)) (failed : Option TimeoutInfo) (tr : List Access)
    (evs : List Event) (t : State) : Prop where
  frame : PollFrame s t
  log : t.log = s.log ++ evs
  trace : t.trace = s.trace ++ tr
  reads : ReadTrace s.cfg (readsParts s.cfg xs) failed tr evs
  raws : failed = none → t.raws = keepReads xs s.raws
  rest : xs ≠ [] ∨ MainIdle s → MainIdle t

theorem ReadsDone.refl (s : State) : ReadsDone s [] none [] [] s where
  frame := rfl
  log := by simp
  trace := by simp
  reads := .nil _
  raws _ := rfl
  rest h := h.resolve_left fun hn => hn rfl

theorem ReadsDone.trans {s t u : State} {xs ys : List (Polled × Byte)} {failed : Option TimeoutInfo}
    {tr tr' : List Access} {evs evs' : List Event} (h : ReadsDone s xs none tr evs t) (hx : xs ≠ [])
    (h' : ReadsDone t ys failed tr' evs' u) : ReadsDone s (xs ++ ys) failed (tr ++ tr') (evs ++ evs') u where
  frame := h.frame.trans h'.frame
  log := by simp [h'.log, h.log]
  trace := by simp [h'.trace, h.trace]
  reads := by
    have hcfg : t.cfg = s.cfg := by rw [h.frame]
    rw [readsParts, List.flatMap_append]
    exact h.reads.append (hcfg ▸ h'.reads)
  raws hf := by rw [h'.raws hf, h.raws rfl, keepReads, keepReads, keepReads, List.foldl_append]
  rest _ := h'.rest (.inr (h.rest (.inl hx)))

/-- The frame of reads that leave MAIN idle. -/
theorem ReadsDone.frame_idle {s t : State} {xs : List (Polled × Byte)} {failed : Option TimeoutInfo}
    {tr : List Access} {evs : List Event} (h : ReadsDone s xs failed tr evs t) (hx : xs ≠ []) :
    t = { s with main := { t.main with hs := .idle, late := false, dataL := s.main.dataL }, raws := t.raws,
                 ec := t.ec, env := t.env, trace := t.trace, log := t.log } := by
  obtain ⟨hhs, hlate⟩ := h.rest (.inl hx)
  rw [← hhs, ← hlate]
  exact h.frame

/-- Reads that would have followed a failure are not made. -/
theorem ReadsDone.cut {s t : State} {xs : List (Polled × Byte)} {i : TimeoutInfo} {tr : List Access}
    {evs : List Event} (h : ReadsDone s xs (some i) tr evs t) (hx : xs ≠ []) (ys : List (Polled × Byte)) :
    ReadsDone s (xs ++ ys) (some i) tr evs t where
  frame := h.frame
  log := h.log
  trace := h.trace
  reads := by
    rw [readsParts, List.flatMap_append]
    exact h.reads.append_failed _
  raws hf := by cases hf
  rest _ := h.rest (.inl hx)

/-- `EC_READ` in MAIN, its trace by policy; the byte it answers is the one read, and is latched (R116, R118). -/
theorem ecRead_main_next (a : Byte) (s : State) (h : s.acquired = true) :
    ∃ x b tr evs t, ecRead .main a s = .next (x, t) ∧ EngineFrame .main s t ∧ t.log = s.log ++ evs ∧
      t.trace = s.trace ++ tr ∧ ReadTrace s.cfg (readParts s.cfg a b) (failureOf x) tr evs ∧
      (∀ b', x = .ok b' → b' = b ∧ t.main.resL = b') ∧ MainIdle t ∧ t.main.dataL = s.main.dataL := by
  obtain ⟨x, b, tr, evs, t, ht, hf, hlog, htr, hcase, hres, -, hl⟩ := ecRead_next .main a s h
  have hidle : MainIdle t := by rw [MainIdle, ← latches_main t, hl]; exact ⟨rfl, rfl⟩
  have hdata : t.main.dataL = s.main.dataL := by rw [← latches_main t, hl]; rfl
  refine ⟨x, b, tr, evs, t, ht, hf, hlog, htr, ?_, fun b' hx => ?_, hidle, hdata⟩
  · obtain ⟨hp, rfl, hs⟩ | ⟨hp, he, -, hff⟩ := hcase
    · exact .inl ⟨hp, rfl, hs⟩
    · exact .inr ⟨hp, he, hff⟩
  · subst hx
    obtain rfl : b' = b := by
      obtain ⟨-, hok, -⟩ | ⟨-, -, hok, -⟩ := hcase
      · cases hok; rfl
      · exact hok b' rfl
    exact ⟨rfl, hres rfl⟩

/-- One polled read: `EC_READ` of its register, its byte kept. -/
theorem polledRead_next (r : Polled) (s : State) (h : s.acquired = true) :
    ∃ x b tr evs t, polledRead r s = .next (x, t) ∧ ReadsDone s [(r, b)] (failureOf x) tr evs t := by
  obtain ⟨x, b, tr, evs, t, ht, hf, hlog, htr, hread, hbyte, hidle, hdata⟩ :=
    ecRead_main_next (polledReg s.cfg r) s h
  have hraws : t.raws = s.raws := by rw [hf]; rfl
  have hframe : PollFrame s t := by
    unfold PollFrame
    rw [← hdata, hraws]
    exact hf
  have hparts : readsParts s.cfg [(r, b)] = readParts s.cfg (polledReg s.cfg r) b := List.append_nil _
  rw [← hparts] at hread
  cases x with
  | error i =>
    exact ⟨.error i, b, tr, evs, t, by rw [polledRead, ht]; rfl, hframe, hlog, htr, hread,
      (fun hn => by cases hn), fun _ => hidle⟩
  | ok b' =>
    obtain ⟨rfl, -⟩ := hbyte b' rfl
    have hkept : PollFrame t { t with raws := setRaw r b' t.raws } := rfl
    exact ⟨.ok (), b', tr, evs, _, by rw [polledRead, ht]; rfl, hframe.trans hkept, hlog, htr, hread,
      fun _ => by rw [hraws]; rfl, fun _ => hidle⟩

/-- Polled reads one after another, up to the first that fails. -/
def polledReads (rs : List Polled) (s : State) : Res (Except TimeoutInfo Unit) :=
  match rs with
  | [] => .next (.ok (), s)
  | r :: rest => orReturn (polledRead r s) fun _ t => polledReads rest t

theorem polledReads_next (rs : List Polled) (s : State) (h : s.acquired = true) :
    ∃ x xs tr evs t, polledReads rs s = .next (x, t) ∧ xs.map Prod.fst = rs ∧
      ReadsDone s xs (failureOf x) tr evs t := by
  induction rs generalizing s with
  | nil => exact ⟨.ok (), [], [], [], s, rfl, rfl, .refl s⟩
  | cons r rest ih =>
    obtain ⟨x, b, tr, evs, t, ht, hd⟩ := polledRead_next r s h
    have hx : [(r, b)] ≠ [] := List.cons_ne_nil _ _
    rw [polledReads, ht]
    cases x with
    | error i =>
      exact ⟨.error i, [(r, b)] ++ rest.map fun q => (q, 0), tr, evs, t, rfl,
        by simp [Function.comp_def], hd.cut hx _⟩
    | ok _ =>
      obtain ⟨x', xs, tr', evs', u, hu, hxs, hd'⟩ := ih t (by rw [hd.frame, h])
      exact ⟨x', [(r, b)] ++ xs, _, _, u, hu, by simp [hxs], hd.trans hx hd'⟩

/-! ## POLLED_SNAPSHOT (O38) -/

/-- The registers of a polled snapshot, in its order (R172, D13). -/
def polledOrder : List Polled := [.fanDuty, .rpmHi, .rpmLo, .cpuTemp, .gpuTemp]

theorem orReturn_assoc {α β γ ε : Type} (r : Res (Except ε α)) (f : α → State → Res (Except ε β))
    (g : β → State → Res (Except ε γ)) :
    orReturn (orReturn r f) g = orReturn r fun a t => orReturn (f a t) g := by
  cases r with
  | next x =>
    obtain ⟨y, t⟩ := x
    cases y <;> rfl
  | fault => rfl
  | refused => rfl

/-- A polled snapshot is its reads, then the decodes. -/
theorem polledSnapshot_eq (s : State) :
    polledSnapshot s =
      orReturn (polledReads polledOrder s) fun _ t => .next (.ok (decodePolled t).fields, decodePolled t) := by
  simp only [polledReads, polledOrder, orReturn_assoc, orReturn_ok]
  rfl

/-- What decodes leave alone. -/
def DecodeFrame (s t : State) : Prop := t = { s with fields := t.fields, ec := t.ec, env := t.env }

theorem DecodeFrame.trans {s t u : State} (h : DecodeFrame s t) (h' : DecodeFrame t u) : DecodeFrame s u := by
  unfold DecodeFrame at *
  rw [h', h]

theorem decodePolled_frame (s : State) : DecodeFrame s (decodePolled s) :=
  have turn : ∀ f u, DecodeFrame u (ecAdvance (decodeFieldStep f u)) := fun _ _ => rfl
  (turn .duty s).trans ((turn .rpm _).trans ((turn .cpuTemp _).trans (turn .gpuTemp _)))

/-- The decodes of a polled snapshot give every field. -/
theorem decodePolled_fields (s : State) : (decodePolled s).fields = decodeRaws (decodePolled s).raws := by
  simp [decodePolled, decodeFieldStep, decodeField, decodeRaws]

/-- The bytes of reads in the order of a polled snapshot. -/
theorem exists_raws_of_polledOrder {c : Config} {xs : List (Polled × Byte)} (h : xs.map Prod.fst = polledOrder) :
    ∃ w, readsParts c xs = polledParts c w ∧ ∀ w0, keepReads xs w0 = w := by
  match xs, h with
  | [(_, bd), (_, bh), (_, bl), (_, bc), (_, bg)], h =>
    simp only [polledOrder, List.map_cons, List.map_nil, List.cons.injEq, and_true] at h
    obtain ⟨rfl, rfl, rfl, rfl, rfl⟩ := h
    exact ⟨⟨bd, bh, bl, bc, bg⟩, by simp [readsParts, polledParts, polledReg], fun _ => rfl⟩

/-- What a polled snapshot sends and reads, from its trace by policy. -/
theorem ReadTrace.polledRun {c : Config} {w : Raws} {failed : Option TimeoutInfo} {tr : List Access}
    {evs : List Event} (h : ReadTrace c (polledParts c w) failed tr evs) : PolledRun c w failed tr evs := by
  have hsent : sentIn (partAccesses (polledParts c w)) = polledBytes c := rfl
  have hbytes : dataBytesIn (partAccesses (polledParts c w)) = rawBytes w := rfl
  have hmade : PartsMade (polledParts c w) tr → sentIn tr = polledBytes c ∧ dataBytesIn tr = rawBytes w :=
    fun hm => ⟨(hm.filterMap fun _ => rfl).trans hsent, (hm.filterMap fun _ => rfl).trans hbytes⟩
  refine ⟨?_, fun hn => ?_, h⟩
  · obtain ⟨-, -, hs⟩ | ⟨-, -, hf⟩ := h
    · rw [(hmade hs.made.1).1]
    · exact hsent ▸ hf.filterMap_prefix fun _ => rfl
  · subst hn
    obtain ⟨-, -, hs⟩ | ⟨-, -, hf⟩ := h
    · exact hmade hs.made.1
    · exact hmade hf.made

/-- What a polled snapshot leaves. -/
structure SnapshotDone (s : State) (x : Except TimeoutInfo Fields) (w : Raws) (tr : List Access) (evs : List Event)
    (t : State) : Prop where
  frame : t = { s with main := { t.main with hs := .idle, late := false, dataL := s.main.dataL },
                       fields := t.fields, raws := t.raws, ec := t.ec, env := t.env, trace := t.trace, log := t.log }
  log : t.log = s.log ++ evs
  trace : t.trace = s.trace ++ tr
  run : PolledRun s.cfg w (failureOf x) tr evs
  ok : ∀ f, x = .ok f → f = t.fields ∧ t.fields = decodeRaws t.raws ∧ t.raws = w
  error : ∀ i, x = .error i → t.fields = s.fields ∧ evs = []

/-- A snapshot whose reads are made is completed by decodes of the bytes read. -/
theorem ReadsDone.decoded {s t u : State} {xs : List (Polled × Byte)} {w : Raws} {tr : List Access}
    {evs : List Event} (h : ReadsDone s xs none tr evs t) (hxs : xs ≠ [])
    (hrun : PolledRun s.cfg w none tr evs) (hraws : t.raws = w) (hdec : DecodeFrame t u)
    (hfields : u.fields = decodeRaws u.raws) : SnapshotDone s (.ok u.fields) w tr evs u where
  frame := by
    unfold DecodeFrame at hdec
    rw [hdec]
    exact congrArg (fun v : State => { v with fields := u.fields, ec := u.ec, env := u.env }) (h.frame_idle hxs)
  log := by rw [hdec]; exact h.log
  trace := by rw [hdec]; exact h.trace
  run := hrun
  ok f hf := by
    cases hf
    exact ⟨rfl, hfields, by rw [hdec]; exact hraws⟩
  error i hi := by cases hi

theorem polledSnapshot_next (s : State) (h : s.acquired = true) :
    ∃ x w tr evs t, polledSnapshot s = .next (x, t) ∧ SnapshotDone s x w tr evs t := by
  obtain ⟨x, xs, tr, evs, t, ht, hxs, hd⟩ := polledReads_next polledOrder s h
  obtain ⟨w, hparts, hkeep⟩ := exists_raws_of_polledOrder (c := s.cfg) hxs
  have hread := hd.reads
  rw [hparts] at hread
  have hne : xs ≠ [] := fun hn => by rw [hn] at hxs; cases hxs
  rw [polledSnapshot_eq, ht]
  cases x with
  | ok _ =>
    rw [orReturn_ok]
    exact ⟨.ok (decodePolled t).fields, w, tr, evs, decodePolled t, rfl,
      hd.decoded hne hread.polledRun ((hd.raws rfl).trans (hkeep _))
      (decodePolled_frame t) (decodePolled_fields t)⟩
  | error i =>
    exact ⟨.error i, w, tr, evs, t, rfl,
      congrArg (fun u : State => { u with fields := t.fields }) (hd.frame_idle hne), hd.log, hd.trace,
      hread.polledRun, (fun _ hx => by cases hx), fun _ _ => ⟨by rw [hd.frame], hread.silent⟩⟩

/-- Settles O38: the snapshot as `polledSnapshot_next` has it. -/
theorem polledSnapshotReadsFiveRegisters : Obligations.PolledSnapshotReadsFiveRegisters := by
  intro s ht ha
  obtain ⟨x, w, tr, evs, t, hx, hd⟩ := polledSnapshot_next s ha
  cases x with
  | ok f =>
    obtain ⟨rfl, hdec, hraws⟩ := hd.ok f rfl
    exact ⟨none, w, tr, evs, _, exec_polledSnapshot_ok ht hx, hd.trace, hd.log, hd.run,
      fun _ => ⟨rfl, hdec, hraws⟩,
      (fun _ hn => by cases hn), congrArg (fun u : State => { u with ret := .fields t.fields }) hd.frame⟩
  | error i =>
    obtain ⟨hfields, -⟩ := hd.error i rfl
    exact ⟨some i, w, tr, evs, _, exec_polledSnapshot_error ht hx, hd.trace, hd.log, hd.run, (fun hn => by cases hn),
      (fun j hj => by cases hj; exact ⟨rfl, hfields⟩),
      congrArg (fun u : State => { u with ret := .err (.timeout i) }) hd.frame⟩

/-! ## The report of a one-shot mode (O39, O40) -/

/-- What the report that ends a one-shot mode leaves: the dump and `EXIT = 0`, or the timeout logged and
`EXIT = EXIT_FAIL` (R173, R174, R203). -/
structure Reported (s : State) (failed : Option TimeoutInfo) (w : Raws) (tr : List Access) (evs : List Event)
    (r : Ret) (t : State) : Prop where
  frame : t = { s with top := .exit, phase := t.phase, csLive := false,
                       main := { t.main with hs := .idle, late := false, dataL := s.main.dataL }, fields := t.fields,
                       raws := t.raws, ec := t.ec, env := t.env, trace := t.trace, log := t.log, exit := t.exit }
  trace : t.trace = s.trace ++ tr
  run : PolledRun s.cfg w failed tr evs
  ok : failed = none → t.log = s.log ++ evs ++ [dumpEvent t.fields] ∧ t.exit = some 0 ∧ r = .fields t.fields ∧
    t.fields = decodeRaws t.raws ∧ t.raws = w
  error : ∀ i, failed = some i → t.log = s.log ++ [.timeoutLogged .main i] ∧ t.exit = some s.cfg.exitFail ∧
    r = .err (.timeout i) ∧ t.fields = s.fields

/-- The last step of a one-shot mode emits an event and writes `EXIT`; the EC's own steps follow it. -/
theorem ended_frame {t u : State} (p : Phase) (e : Event) (code : Nat) (h : t = u) :
    ecAdvance (writeExit code (emit e { t with phase := p })) =
      { u with top := .exit, phase := p, csLive := false, log := t.log ++ [e], exit := some code,
               ec := (ecAdvance t).ec, env := (ecAdvance t).env } := by
  subst h
  rfl

theorem reportAndExit_next (s : State) (h : s.acquired = true) :
    ∃ failed w tr evs r t, reportAndExit s = .next (r, t) ∧ Reported s failed w tr evs r t := by
  obtain ⟨x, w, tr, evs, t, hx, hd⟩ := polledSnapshot_next s h
  have hcfg : t.cfg = s.cfg := by rw [hd.frame]
  rw [reportAndExit, hx, andThen_next]
  cases x with
  | ok f =>
    obtain ⟨rfl, hdec, hraws⟩ := hd.ok f rfl
    exact ⟨none, w, tr, evs, .fields t.fields, _, rfl, ended_frame _ _ _ hd.frame, hd.trace, hd.run,
      fun _ => ⟨congrArg (· ++ [_]) hd.log, rfl, rfl, hdec, hraws⟩, (fun _ hn => by cases hn)⟩
  | error i =>
    obtain ⟨hfields, rfl⟩ := hd.error i rfl
    refine ⟨some i, w, tr, [], .err (.timeout i), _, rfl, ended_frame _ _ _ hd.frame, hd.trace, hd.run,
      (fun hn => by cases hn), fun j hj => ?_⟩
    cases hj
    exact ⟨congrArg (· ++ [_]) (hd.log.trans (List.append_nil _)), congrArg (fun c : Config => some c.exitFail) hcfg,
      rfl, hfields⟩

/-- `DUMP` with privilege is the report from its mode (R173). -/
theorem runDump_entered {s : State} (hp : s.priv = true) : runDump s = reportAndExit (entered .dump s) := by
  rw [runDump, takeCommand_ok HostCommand.noConfusion hp]
  rfl

/-- Settles O39: the command is taken, and the report follows. -/
theorem dumpReportsAndExits : Obligations.DumpReportsAndExits := by
  intro s ht hp
  obtain ⟨failed, w, tr, evs, r, t, hrun, hd⟩ := reportAndExit_next (entered .dump s) rfl
  exact ⟨failed, w, tr, evs, _, exec_dump ht ((runDump_entered hp).trans hrun), hd.trace, hd.run, hd.ok, hd.error,
    congrArg (fun u : State => { u with ret := r }) hd.frame⟩

/-- A duty write in MAIN: one write transaction, nothing logged, the sequencer idle again (R113, R121). -/
theorem writeDuty_next (n : Duty) (s : State) (h : s.acquired = true) :
    ∃ x tr t, writeDuty .main n s = .next (x, t) ∧ t.trace = s.trace ++ tr ∧
      FailFastTrace s.cfg (writeParts s.cfg s.cfg.board.fanDutyWrAddr (dutyEnc n)) (failureOf x) tr ∧
      t = { s with main := { t.main with hs := .idle, late := false, dataL := dutyEnc n }, ec := t.ec, env := t.env,
                   trace := t.trace } := by
  obtain ⟨x, tr, t, ht, hf, hlog, htr, hff, -, hl⟩ :=
    ecWrite_next .main s.cfg.board.fanDutyWrAddr (dutyEnc n) (ecAdvance s) h
  have hmain : t.main = { t.main with hs := .idle, late := false, dataL := dutyEnc n } := by
    rw [← latches_main t, hl]
  rw [ecAdvance_log] at hlog
  refine ⟨x, tr, t, ht, htr, hff, ?_⟩
  rw [← hmain, ← hlog]
  exact hf

/-- What follows the write of `SETDUTY`, by its result (R174, R202). -/
def afterSetduty (x : Except TimeoutInfo Unit) (t : State) : Res Ret :=
  match x with
  | .ok _ => reportAndExit t
  | .error i => .next (.err (.timeout i), ecAdvance (oneShotFailed i { t with phase := .osFailed i }))

/-- `SETDUTY` with privilege is its write from its mode, and what follows it. -/
theorem runSetduty_entered {s : State} (n : Duty) (hp : s.priv = true) :
    runSetduty n s = andThen (writeDuty .main n (entered (.setduty n) s)) afterSetduty := by
  rw [runSetduty, takeCommand_ok HostCommand.noConfusion hp]
  dsimp only
  congr 1

/-- Settles O40: the command is taken, one write is made, and the report follows if it succeeded. -/
theorem setdutyWritesThenReports : Obligations.SetdutyWritesThenReports := by
  intro s n ht hp
  obtain ⟨x, tr, u, hu, htr, hff, hframe⟩ := writeDuty_next n (entered (.setduty n) s) rfl
  have hop : runSetduty n s = afterSetduty x u := by rw [runSetduty_entered n hp, hu, andThen_next]
  cases x with
  | error i =>
    have hkept := congrArg (fun v : State => { v with fields := u.fields, raws := u.raws }) hframe
    have hend := ended_frame (.osFailed i) (.timeoutLogged .main i) u.cfg.exitFail hkept
    refine ⟨some i, tr, _, exec_setduty ht hop, hff, fun j hj => ?_, (fun hn => by cases hn),
      congrArg (fun v : State => { v with ret := .err (.timeout i) }) hend⟩
    cases hj
    rw [hframe] at htr ⊢
    exact ⟨htr, rfl, rfl, rfl, rfl, rfl⟩
  | ok _ =>
    obtain ⟨failed, w, tr', evs, r, t, hrun, hd⟩ := reportAndExit_next u (by rw [hframe]; rfl)
    have htrace := hd.trace
    rw [htr] at htrace
    rw [hframe] at hd
    exact ⟨none, tr, _, exec_setduty ht (hop.trans hrun), hff, (fun _ hn => by cases hn),
      fun _ => ⟨failed, w, tr', evs, htrace, hd.run, hd.ok, hd.error⟩,
      congrArg (fun v : State => { v with ret := r }) hd.frame⟩

end Sys2Proof.Machine
end

section
/-! # The bulk read and the tick (O42 to O46)

A tick is followed from its head by the answer of its bulk read: stopped at the head, failed for good, skipped,
or full. A full one is described from its decision on: nothing written, or one duty write. -/

namespace Sys2Proof.Machine

/-! ## SNAP_READ (O42) -/

/-- Settles O42: by the four kinds of answer. -/
theorem snapReadByAnswer : Obligations.SnapReadByAnswer := by
  intro s ht
  cases hsnap : nextSnap s with
  | openFail =>
    exact ⟨_, exec_snapRead_error ht (snapRead_openFail hsnap), ecAdvance_turns _, rfl, fun _ => ⟨rfl, rfl⟩,
      (fun h => by cases h), (fun _ h => by cases h), (fun _ h => by cases h), rfl⟩
  | readError =>
    exact ⟨_, exec_snapRead_error ht (snapRead_readError hsnap), ecAdvance_turns _, rfl, (fun h => by cases h),
      fun _ => ⟨rfl, rfl⟩, (fun _ h => by cases h), (fun _ h => by cases h), rfl⟩
  | bytes bs =>
    by_cases hl : bs.length = 256
    · exact ⟨_, exec_snapRead_ok ht (snapRead_full hsnap hl), ecAdvance_turns _, rfl, (fun h => by cases h),
        (fun h => by cases h), (fun _ h hn => by cases h; exact absurd hl hn),
        fun _ _ _ => ⟨rfl, imageAt_image _⟩, rfl⟩
    · exact ⟨_, exec_snapRead_error ht (snapRead_short hsnap hl), ecAdvance_turns _, rfl, (fun h => by cases h),
        (fun h => by cases h), (fun _ h _ => by cases h; exact ⟨rfl, rfl⟩),
        (fun _ h hn => by cases h; exact absurd hn hl), rfl⟩

/-! ## A tick by the answer of its bulk read (R181) -/

/-- The state at the bulk read of a tick: the head is passed, and the EC has taken its own steps (R180). -/
def atSnap (s : State) : State := ecAdvance { s with phase := .lSnap }

/-- The state after a bulk read that failed. -/
def atSnapFailed (e : SnapFailure) (s : State) : State := ecAdvance { (drawSnap s).2 with phase := .lSnapFailed e }

theorem nextSnap_atSnap (s : State) : nextSnap (atSnap s) = nextSnap (ecAdvance s) := rfl

theorem runTick_running {s : State} (h : s.run = true) : runTick s = snapAndDecide (atSnap s) := by
  rw [runTick, if_pos h, headStep_running h]
  rfl

theorem snapStep_error {s t : State} {e : SnapFailure} (h : snapRead s = (.error e, t)) :
    snapStep s = { t with phase := .lSnapFailed e } := by
  rw [snapStep, h]

theorem snapStep_ok {s t : State} {img : Image} (h : snapRead s = (.ok img, t)) :
    snapStep s = { t with phase := .lDecode } := by
  rw [snapStep, h]

/-- A failed open ends the run (R204). -/
theorem snapAndDecide_openFail {s : State} (h : nextSnap s = .openFail) :
    snapAndDecide s = .next ((), ecAdvance (fatal .snapOpenError (atSnapFailed .openFail s))) := by
  rw [snapAndDecide, snapStep_error (snapRead_openFail h)]
  rfl

/-- The event of a soft failure (R204, R205). -/
def softEvent (e : SnapFailure) : Event :=
  match e with
  | .readError => .snapReadError
  | .sizeMismatch n => .sizeMismatch n
  | .openFail => .snapOpenError

/-- A soft failure is logged, and the tick is over (R181). -/
theorem snapAndDecide_soft {s : State} {e : SnapFailure} (he : e ≠ .openFail)
    (h : snapRead s = (.error e, (drawSnap s).2)) :
    snapAndDecide s = .next ((), ecAdvance (sleepStep (ecAdvance
      (emit (softEvent e) (atSnapFailed e s))))) := by
  rw [snapAndDecide, snapStep_error h]
  cases e with
  | openFail => exact absurd rfl he
  | _ => rfl

/-- After a full answer the image is decoded (R181). -/
theorem snapAndDecide_full {s : State} {bs : List Byte} (h : nextSnap s = .bytes bs) (hl : bs.length = 256) :
    snapAndDecide s = decideAndWrite (ecAdvance (decodeStep
      (ecAdvance { (drawSnap s).2 with snap := s.ec.regs.image, phase := .lDecode }))) := by
  rw [snapAndDecide, snapStep_ok (snapRead_full h hl)]
  rfl

/-! ## A failed bulk read (O44, O45) -/

/-- Nothing but the position, the log and the inputs used up differs, and the EC has taken its own steps. -/
def SkipFrame (s t : State) : Prop :=
  t = { s with phase := t.phase, log := t.log, ec := t.ec, env := t.env } ∧ EcTurns s.cfg s.ec t.ec

theorem SkipFrame.trans {s t u : State} (h : SkipFrame s t) (h' : SkipFrame t u) : SkipFrame s u := by
  obtain ⟨hf, he⟩ := h
  obtain ⟨hf', he'⟩ := h'
  have hcfg : t.cfg = s.cfg := by rw [hf]
  exact ⟨by rw [hf', hf], he.trans (hcfg ▸ he')⟩

theorem SkipFrame.turn {s t : State} (h : SkipFrame s t) : SkipFrame s (ecAdvance t) :=
  h.trans ⟨rfl, ecAdvance_turns t⟩

theorem SkipFrame.phase {s t : State} (h : SkipFrame s t) (p : Phase) : SkipFrame s { t with phase := p } :=
  h.trans ⟨rfl, .refl _ _⟩

theorem SkipFrame.emit {s t : State} (h : SkipFrame s t) (e : Event) : SkipFrame s (emit e t) :=
  h.trans ⟨rfl, .refl _ _⟩

theorem atSnapFailed_skip (e : SnapFailure) (s : State) : SkipFrame s (atSnapFailed e (atSnap s)) := by
  have hsnap : SkipFrame s (atSnap s) := SkipFrame.turn ⟨rfl, .refl _ _⟩
  have hdraw : SkipFrame s (drawSnap (atSnap s)).2 := hsnap.trans ⟨rfl, .refl _ _⟩
  exact (hdraw.phase _).turn

/-- A tick whose bulk read cannot be opened logs that, and ends the run (R204). -/
theorem runTick_openFail {s : State} (hrun : s.run = true) (h : nextSnap (ecAdvance s) = .openFail) :
    ∃ u, runTick s = .next ((), ecAdvance (fatal .snapOpenError u)) ∧ SkipFrame s u ∧ u.log = s.log :=
  ⟨_, (runTick_running hrun).trans (snapAndDecide_openFail (nextSnap_atSnap s ▸ h)), atSnapFailed_skip _ s, rfl⟩

/-- A tick whose bulk read fails softly logs that, and comes back to the head (R204, R205). -/
theorem runTick_soft {s : State} {e : SnapFailure} (hrun : s.run = true) (he : e ≠ .openFail)
    (h : snapRead (atSnap s) = (.error e, (drawSnap (atSnap s)).2)) :
    ∃ t, runTick s = .next ((), t) ∧ SkipFrame s t ∧ t.phase = .lHead ∧ t.log = s.log ++ [softEvent e] :=
  ⟨_, (runTick_running hrun).trans (snapAndDecide_soft he h),
    ((((atSnapFailed_skip e s).emit (softEvent e)).turn).phase .lHead).turn, rfl, rfl⟩

/-- Settles O45: the failed open is logged, and nothing else is done. -/
theorem openFailureEndsTheRun : Obligations.OpenFailureEndsTheRun := by
  intro s ht hrun hsnap
  obtain ⟨u, htick, ⟨hframe, hturns⟩, hlog⟩ := runTick_openFail hrun hsnap
  have hcfg : u.cfg = s.cfg := by rw [hframe]
  refine ⟨_, exec_tick ht htick, congrArg (· ++ [_]) hlog, hturns.trans (hcfg ▸ ecAdvance_turns u), ?_⟩
  rw [hframe]
  rfl

theorem exec_tick_soft {s : State} {e : SnapFailure} (ht : s.top ≠ .exit) (hrun : s.run = true)
    (he : e ≠ .openFail) (h : snapRead (atSnap s) = (.error e, (drawSnap (atSnap s)).2)) :
    ∃ t, exec .tick s = .next t ∧ t.log = s.log ++ [softEvent e] ∧ EcTurns s.cfg s.ec t.ec ∧
      t = { s with phase := .lHead, log := t.log, ec := t.ec, env := t.env, ret := .ok } := by
  obtain ⟨t, htick, ⟨hframe, hturns⟩, hphase, hlog⟩ := runTick_soft hrun he h
  rw [hphase] at hframe
  exact ⟨_, exec_tick ht htick, hlog, hturns, congrArg (fun u : State => { u with ret := .ok }) hframe⟩

/-- Settles O44: the two soft failures. -/
theorem softSnapshotFailureSkipsTheTick : Obligations.SoftSnapshotFailureSkipsTheTick := by
  refine fun s ht hrun => ⟨fun hsnap => ?_, fun bs hsnap hl => ?_⟩
  · exact exec_tick_soft ht hrun SnapFailure.noConfusion (snapRead_readError (nextSnap_atSnap s ▸ hsnap))
  · exact exec_tick_soft ht hrun SnapFailure.noConfusion (snapRead_short (nextSnap_atSnap s ▸ hsnap) hl)

/-! ## A tick from the decision on (R182, R183) -/

/-- What a pass of the loop before its end leaves alone. -/
def TickFrame (s t : State) : Prop :=
  t = { s with phase := t.phase, main := t.main, cs := t.cs, pending := t.pending, snap := t.snap, log := t.log,
               ec := t.ec, env := t.env, trace := t.trace }

theorem TickFrame.trans {s t u : State} (h : TickFrame s t) (h' : TickFrame t u) : TickFrame s u := by
  unfold TickFrame at *
  rw [h', h]

theorem TickFrame.cfg {s t : State} (h : TickFrame s t) : t.cfg = s.cfg := by rw [h]

theorem TickFrame.acquired {s t : State} (h : TickFrame s t) : t.acquired = s.acquired := by rw [h]

/-- A decision that asks for no write (R182). -/
theorem decideStep_keeps {s : State}
    (h : ∀ n, nextDuty s.cs.cpuTemp s.cs.gpuTemp s.cs.curDuty = .duty n → wantsWrite s.cs n = false) :
    decideStep s = { s with phase := .lSleep } := by
  unfold decideStep
  split
  · rfl
  · rename_i n hn
    rw [if_neg (by rw [h n hn]; exact Bool.false_ne_true)]

/-- A decision that asks for a write (R182). -/
theorem decideStep_writes {s : State} {n : Duty} (h : nextDuty s.cs.cpuTemp s.cs.gpuTemp s.cs.curDuty = .duty n)
    (hw : wantsWrite s.cs n = true) : decideStep s = { s with pending := n, phase := .lWrite } := by
  simp only [decideStep, h, hw, if_true]

/-- What a decided tick that writes nothing does. -/
theorem decideAndWrite_keeps {s : State} (h : decideStep s = { s with phase := .lSleep }) :
    decideAndWrite s = .next ((), ecAdvance (sleepStep (ecAdvance { s with phase := .lSleep }))) := by
  rw [decideAndWrite, h]
  rfl

/-- The last step of a tick that made its write, by the result of the write. -/
def afterWrite (x : Except TimeoutInfo Unit) (t : State) : State :=
  match x with
  | .ok _ => writtenStep t
  | .error i => writeFailedStep i t

theorem writeTick_eq (s : State) :
    writeTick s = andThen (writeDuty .main s.pending s) fun x t => .next ((), ecAdvance (afterWrite x t)) := by
  rw [writeTick]
  congr 1
  funext x t
  cases x <;> rfl

theorem decideAndWrite_writes {s t : State} {n : Duty} {x : Except TimeoutInfo Unit}
    (h : decideStep s = { s with pending := n, phase := .lWrite })
    (ht : writeDuty .main n (ecAdvance { s with pending := n, phase := .lWrite }) = .next (x, t)) :
    decideAndWrite s = .next ((), ecAdvance (sleepStep (ecAdvance (afterWrite x t)))) := by
  have htick : writeTick (ecAdvance { s with pending := n, phase := .lWrite }) =
      .next ((), ecAdvance (afterWrite x t)) := by
    rw [writeTick_eq]
    show andThen (writeDuty .main n _) _ = _
    rw [ht, andThen_next]
  rw [decideAndWrite, h]
  show andThen (writeTick _) _ = _
  rw [htick, andThen_next]

/-- What the last step of a tick that made its write records and logs (R183). -/
theorem afterWrite_ok (t : State) :
    ∃ time env, afterWrite (.ok ()) t =
      { t with cs := { t.cs with autoDuty := t.pending.val }, phase := .lSleep,
               log := t.log ++ [.transition t.cs.cpuTemp t.cs.gpuTemp t.pending time], env := env } := ⟨_, _, rfl⟩

theorem afterWrite_error (i : TimeoutInfo) (t : State) :
    afterWrite (.error i) t = { t with phase := .lSleep, log := t.log ++ [.timeoutLogged .main i] } := rfl

/-- A tick from `s` with the Control State `c` at its decision, where nothing is written. -/
structure TickKept (s : State) (c : ControlState) (t : State) : Prop where
  frame : TickFrame s t
  phase : t.phase = .lHead
  cs : t.cs = c
  trace : t.trace = s.trace
  log : t.log = s.log

/-- A tick from `s` with the Control State `c` at its decision, where `n` is written: one duty write, recorded and
logged on success, and only the timeout logged on failure (R183). -/
structure TickWrote (s : State) (c : ControlState) (n : Duty) (failed : Option TimeoutInfo) (tr : List Access)
    (t : State) : Prop where
  frame : TickFrame s t
  phase : t.phase = .lHead
  trace : t.trace = s.trace ++ tr
  pending : t.pending = n
  write : FailFastTrace s.cfg (writeParts s.cfg s.cfg.board.fanDutyWrAddr (dutyEnc n)) failed tr
  ok : failed = none → t.cs = { c with autoDuty := n.val } ∧
    ∃ time, t.log = s.log ++ [.transition c.cpuTemp c.gpuTemp n time]
  error : ∀ i, failed = some i → t.cs = c ∧ t.log = s.log ++ [.timeoutLogged .main i]

theorem decideAndWrite_kept {s : State}
    (h : ∀ n, nextDuty s.cs.cpuTemp s.cs.gpuTemp s.cs.curDuty = .duty n → wantsWrite s.cs n = false) :
    ∃ t, decideAndWrite s = .next ((), t) ∧ TickKept s s.cs t :=
  ⟨_, decideAndWrite_keeps (decideStep_keeps h), rfl, rfl, rfl, rfl, rfl⟩

theorem decideAndWrite_wrote {s : State} {n : Duty} (ha : s.acquired = true)
    (h : nextDuty s.cs.cpuTemp s.cs.gpuTemp s.cs.curDuty = .duty n) (hw : wantsWrite s.cs n = true) :
    ∃ failed tr t, decideAndWrite s = .next ((), t) ∧ TickWrote s s.cs n failed tr t := by
  obtain ⟨x, tr, t, ht, htr, hff, hframe⟩ :=
    writeDuty_next n (ecAdvance { s with pending := n, phase := .lWrite }) ha
  have hrun := decideAndWrite_writes (decideStep_writes h hw) ht
  have hpending : t.pending = n := by rw [hframe]; rfl
  have hcs : t.cs = s.cs := by rw [hframe]; rfl
  have hlog : t.log = s.log := by rw [hframe]; rfl
  have hf : TickFrame s t := by
    unfold TickFrame
    rw [hframe]
    rfl
  refine ⟨failureOf x, tr, _, hrun, ?_⟩
  cases x with
  | ok _ =>
    obtain ⟨time, env, hend⟩ := afterWrite_ok t
    rw [hend, hpending, hcs, hlog]
    exact
      { frame := hf.trans rfl
        phase := rfl
        trace := htr
        pending := rfl
        write := hff
        ok := fun _ => ⟨rfl, time, rfl⟩
        error := fun _ hn => by cases hn }
  | error i =>
    rw [afterWrite_error, hlog]
    exact
      { frame := hf.trans rfl
        phase := rfl
        trace := htr
        pending := hpending
        write := hff
        ok := fun hn => by cases hn
        error := fun j hj => by cases hj; exact ⟨hcs, rfl⟩ }

/-! ## A tick with a full bulk read (O43, O46) -/

/-- The state at the decision of a tick, after a full bulk read at `s` and its decode (R181). -/
def atDecide (s : State) : State :=
  ecAdvance (decodeStep (ecAdvance { (drawSnap s).2 with snap := s.ec.regs.image, phase := .lDecode }))

theorem runTick_full {s : State} {bs : List Byte} (hrun : s.run = true) (h : nextSnap (ecAdvance s) = .bytes bs)
    (hl : bs.length = 256) : runTick s = decideAndWrite (atDecide (atSnap s)) :=
  (runTick_running hrun).trans (snapAndDecide_full (nextSnap_atSnap s ▸ h) hl)

/-- The Control State a full bulk read gives (R181). -/
def readBack (s : State) : ControlState :=
  { s.cs with cpuTemp := (snapDecode s.cfg s.ec.regs.image).cpuTemp
              gpuTemp := (snapDecode s.cfg s.ec.regs.image).gpuTemp
              curDuty := (snapDecode s.cfg s.ec.regs.image).duty }

/-- A tick with a full bulk read up to its decision: the Control State is read back, and nothing is accessed or
logged. -/
theorem atDecide_next (s : State) :
    ∃ u, atDecide (atSnap s) = u ∧ TickFrame s u ∧ u.cs = readBack (ecAdvance s) ∧ u.trace = s.trace ∧
      u.log = s.log := ⟨_, rfl, rfl, rfl, rfl, rfl⟩

theorem runTick_kept {s : State} {bs : List Byte} {c : ControlState} (hrun : s.run = true)
    (hsnap : nextSnap (ecAdvance s) = .bytes bs) (hl : bs.length = 256) (hc : readBack (ecAdvance s) = c)
    (h : ∀ n, nextDuty c.cpuTemp c.gpuTemp c.curDuty = .duty n → wantsWrite c n = false) :
    ∃ t, runTick s = .next ((), t) ∧ TickKept s c t := by
  obtain ⟨u, hu, hf, hcs, htrace, hlog⟩ := atDecide_next s
  obtain rfl : u.cs = c := hcs.trans hc
  obtain ⟨t, hrest, hk⟩ := decideAndWrite_kept h
  refine ⟨t, (runTick_full hrun hsnap hl).trans (hu ▸ hrest), ?_⟩
  exact
    { frame := hf.trans hk.frame
      phase := hk.phase
      cs := hk.cs
      trace := hk.trace.trans htrace
      log := hk.log.trans hlog }

theorem runTick_wrote {s : State} {bs : List Byte} {c : ControlState} {n : Duty} (hrun : s.run = true)
    (ha : s.acquired = true) (hsnap : nextSnap (ecAdvance s) = .bytes bs) (hl : bs.length = 256)
    (hc : readBack (ecAdvance s) = c) (h : nextDuty c.cpuTemp c.gpuTemp c.curDuty = .duty n)
    (hw : wantsWrite c n = true) : ∃ failed tr t, runTick s = .next ((), t) ∧ TickWrote s c n failed tr t := by
  obtain ⟨u, hu, hf, hcs, htrace, hlog⟩ := atDecide_next s
  obtain rfl : u.cs = c := hcs.trans hc
  obtain ⟨failed, tr, t, hrest, hk⟩ := decideAndWrite_wrote (by rw [hf.acquired, ha]) h hw
  refine ⟨failed, tr, t, (runTick_full hrun hsnap hl).trans (hu ▸ hrest), ?_⟩
  exact
    { frame := hf.trans hk.frame
      phase := hk.phase
      trace := htrace ▸ hk.trace
      pending := hk.pending
      write := hf.cfg ▸ hk.write
      ok := hlog ▸ hk.ok
      error := hlog ▸ hk.error }

theorem wantsWrite_iff {cs : ControlState} {n : Duty} :
    wantsWrite cs n = true ↔ (n.val : Int) ≠ cs.autoDuty ∨ (n = 0 ∧ cs.curDuty ≠ 0) := by
  simp [wantsWrite]

/-- A decision asks for no write, or for the write of one duty. -/
theorem decision_cases (c : ControlState) :
    (∀ n, nextDuty c.cpuTemp c.gpuTemp c.curDuty = .duty n → wantsWrite c n = false) ∨
    ∃ n, nextDuty c.cpuTemp c.gpuTemp c.curDuty = .duty n ∧ wantsWrite c n = true := by
  by_cases h : ∃ n, nextDuty c.cpuTemp c.gpuTemp c.curDuty = .duty n ∧ wantsWrite c n = true
  · exact .inr h
  · exact .inl fun n hn => Bool.eq_false_iff.mpr fun hw => h ⟨n, hn, hw⟩

/-- Settles O46: the decision answers `NoChange`, a duty that needs no write, or one that is written. -/
theorem tickDecidesAndWrites : Obligations.TickDecidesAndWrites := by
  intro s bs ht ha hrun hsnap hl f cs result
  have hc : readBack (ecAdvance s) = cs := rfl
  obtain hno | ⟨n, hn, hw⟩ := decision_cases cs
  · obtain ⟨t, htick, hk⟩ := runTick_kept hrun hsnap hl hc hno
    refine ⟨_, exec_tick ht htick, hk.phase, by rw [hk.frame], by rw [hk.frame],
      fun _ => ⟨hk.cs, hk.trace, hk.log⟩,
      fun _ _ _ _ => ⟨hk.cs, hk.trace, hk.log⟩, fun n hn hw => ?_⟩
    cases (hno n hn).symm.trans (wantsWrite_iff.mpr hw)
  · obtain ⟨failed, tr, t, htick, hk⟩ := runTick_wrote hrun ha hsnap hl hc hn hw
    change result = .duty n at hn
    refine ⟨_, exec_tick ht htick, hk.phase, by rw [hk.frame], by rw [hk.frame], ?_, ?_, ?_⟩
    · intro hno
      rw [hn] at hno
      cases hno
    · intro m hm hauto hstop
      obtain rfl : n = m := by rw [hn] at hm; injection hm
      obtain hne | ⟨h0, hcur⟩ := wantsWrite_iff.mp hw
      · exact absurd hauto hne
      · exact (hstop.elim (fun h => h h0) hcur).elim
    · intro m hm _
      obtain rfl : n = m := by rw [hn] at hm; injection hm
      exact ⟨failed, tr, hk.trace, hk.pending, hk.write, hk.ok, hk.error⟩

/-- What a tick does, whatever the environment answers: no data read, at most one write transaction, of an
encoded duty, at most one event. -/
def TickDone (s t : State) : Prop :=
  ∃ tr evs, t.trace = s.trace ++ tr ∧ dataBytesIn tr = [] ∧
    (∃ n : Duty, sentIn tr <+: sentBytes s.cfg (.ecWrite s.cfg.board.fanDutyWrAddr (dutyEnc n))) ∧
    t.log = s.log ++ evs ∧ evs.length ≤ 1 ∧
    (t.top = .exit ∨ (t.phase = .lHead ∧ t.exit = s.exit ∧ t.top = s.top)) ∧
    t = { s with top := t.top, phase := t.phase, main := t.main, csLive := t.csLive, cs := t.cs,
                 pending := t.pending, snap := t.snap, log := t.log, exit := t.exit, ec := t.ec, env := t.env,
                 trace := t.trace }

/-- A tick that makes no access. -/
theorem TickDone.silent {s t : State} {evs : List Event} (htrace : t.trace = s.trace) (hlog : t.log = s.log ++ evs)
    (hevs : evs.length ≤ 1) (hend : t.top = .exit ∨ (t.phase = .lHead ∧ t.exit = s.exit ∧ t.top = s.top))
    (hf : t = { s with top := t.top, phase := t.phase, main := t.main, csLive := t.csLive, cs := t.cs,
                       pending := t.pending, snap := t.snap, log := t.log, exit := t.exit, ec := t.ec, env := t.env,
                       trace := t.trace }) : TickDone s t :=
  ⟨[], evs, by simp [htrace], rfl, ⟨0, List.nil_prefix⟩, hlog, hevs, hend, hf⟩

/-- A tick that comes back to the head. -/
theorem TickFrame.back {s t : State} (h : TickFrame s t) (hphase : t.phase = .lHead) :
    (t.phase = .lHead ∧ t.exit = s.exit ∧ t.top = s.top) ∧
    t = { s with top := t.top, phase := t.phase, main := t.main, csLive := t.csLive, cs := t.cs,
                 pending := t.pending, snap := t.snap, log := t.log, exit := t.exit, ec := t.ec, env := t.env,
                 trace := t.trace } :=
  ⟨⟨hphase, by rw [h], by rw [h]⟩,
    congrArg (fun u : State => { u with top := t.top, csLive := t.csLive, exit := t.exit }) h⟩

theorem TickKept.done {s t : State} {c : ControlState} (h : TickKept s c t) : TickDone s t :=
  have hback := h.frame.back h.phase
  .silent (evs := []) h.trace (by simp [h.log]) (Nat.zero_le 1) (.inr hback.1) hback.2

/-- A tick that wrote sends no more than one write transaction. -/
theorem TickWrote.done {s t : State} {c : ControlState} {n : Duty} {failed : Option TimeoutInfo}
    {tr : List Access} (h : TickWrote s c n failed tr t) : TickDone s t := by
  have hdata : dataBytesIn tr <+: [] := by
    have hp := h.write.filterMap_prefix (g := Access.dataByte) fun _ => rfl
    rwa [partAccesses_writeParts] at hp
  have hsent : sentIn tr <+: sentBytes s.cfg (.ecWrite s.cfg.board.fanDutyWrAddr (dutyEnc n)) := by
    rw [← sentIn_writeParts]
    exact h.write.filterMap_prefix fun _ => rfl
  obtain ⟨e, hlog⟩ : ∃ e, t.log = s.log ++ [e] := by
    cases failed with
    | none =>
      obtain ⟨-, time, hlog⟩ := h.ok rfl
      exact ⟨_, hlog⟩
    | some i => exact ⟨_, (h.error i rfl).2⟩
  obtain ⟨hend, hf⟩ := h.frame.back h.phase
  exact ⟨tr, [e], h.trace, List.prefix_nil.mp hdata, ⟨n, hsent⟩, hlog, Nat.le_refl 1, .inr hend, hf⟩

theorem SkipFrame.tick {s t : State} (h : SkipFrame s t) : TickFrame s t := by
  obtain ⟨hf, -⟩ := h
  unfold TickFrame
  rw [hf]

/-- A tick by the exit at its head and by the answer of its bulk read. -/
theorem runTick_done {s : State} (ha : s.acquired = true) : ∃ t, runTick s = .next ((), t) ∧ TickDone s t := by
  have soft : ∀ e, s.run = true → e ≠ .openFail → snapRead (atSnap s) = (.error e, (drawSnap (atSnap s)).2) →
      ∃ t, runTick s = .next ((), t) ∧ TickDone s t := by
    intro e hrun he h
    obtain ⟨t, htick, hskip, hphase, hlog⟩ := runTick_soft hrun he h
    obtain ⟨hend, hf⟩ := hskip.tick.back hphase
    exact ⟨t, htick, .silent (by rw [hskip.1]) hlog (Nat.le_refl 1) (.inr hend) hf⟩
  cases hrun : s.run with
  | false => exact ⟨_, runTick_cleared hrun, .silent (evs := []) rfl (by simp) (Nat.zero_le 1) (.inl rfl) rfl⟩
  | true =>
    cases hsnap : nextSnap (ecAdvance s) with
    | openFail =>
      obtain ⟨u, htick, ⟨hf, -⟩, hlog⟩ := runTick_openFail hrun hsnap
      refine ⟨_, htick, .silent ?_ (congrArg (· ++ [_]) hlog) (Nat.le_refl 1) (.inl rfl) ?_⟩
      · rw [hf]; rfl
      · rw [hf]; rfl
    | readError => exact soft _ hrun SnapFailure.noConfusion (snapRead_readError (nextSnap_atSnap s ▸ hsnap))
    | bytes bs =>
      by_cases hl : bs.length = 256
      · obtain hno | ⟨n, hn, hw⟩ := decision_cases (readBack (ecAdvance s))
        · obtain ⟨t, htick, hk⟩ := runTick_kept hrun hsnap hl rfl hno
          exact ⟨t, htick, hk.done⟩
        · obtain ⟨failed, tr, t, htick, hk⟩ := runTick_wrote hrun ha hsnap hl rfl hn hw
          exact ⟨t, htick, hk.done⟩
      · exact soft _ hrun SnapFailure.noConfusion (snapRead_short (nextSnap_atSnap s ▸ hsnap) hl)

/-- Settles O43: the tick as `runTick_done` has it, issued. -/
theorem tickDoesAtMostOneWrite : Obligations.TickDoesAtMostOneWrite := by
  intro s ht ha
  obtain ⟨t, htick, tr, evs, htrace, hdata, hsent, hlog, hevs, hend, hf⟩ := runTick_done ha
  exact ⟨tr, evs, _, exec_tick ht htick, htrace, hdata, hsent, hlog, hevs, hend,
    congrArg (fun u : State => { u with ret := .ok }) hf⟩

end Sys2Proof.Machine
end

section
/-! # Runs of MAIN (O58)

A whole operation and its steps are compared along one relation: steps of MAIN, one after another, that touch
neither the issue port nor what decides whether a stop request is accepted. A handshake inside such a run is its
table, which O56 and O57 compare with the whole transaction. -/

namespace Sys2Proof.Machine

/-! ## Steps of MAIN, one after another -/

/-- One step of MAIN that leaves the issue port, the guard and its arming alone. -/
structure MainTo (s t : State) : Prop where
  step : mainStep s = .next ((), t)
  issue : t.issue = s.issue
  g : t.g = s.g
  armed : t.armed = s.armed

/-- Finitely many steps of MAIN. -/
abbrev MainRuns : State → State → Prop := Relation.ReflTransGen MainTo

theorem MainRuns.runMain {s t : State} (h : MainRuns s t) : ∃ k, runMain k s = .next ((), t) := by
  induction h using Relation.ReflTransGen.head_induction_on with
  | refl => exact ⟨0, rfl⟩
  | head h1 _ ih =>
    obtain ⟨k, hk⟩ := ih
    exact ⟨k + 1, by rw [Machine.runMain, h1.step, andThen_next, hk]⟩

theorem MainTo.quiet {s t : State} (h : MainTo s t) (hq : Quiet s) : Quiet t :=
  ⟨h.issue.trans hq.issue, h.g.trans hq.g, h.armed.trans hq.armed⟩

theorem MainRuns.quiet {s t : State} (h : MainRuns s t) (hq : Quiet s) : Quiet t := by
  induction h with
  | refl => exact hq
  | tail _ h1 ih => exact h1.quiet ih

/-- From a state in which nothing comes between, MAIN's steps are the machine's. -/
theorem MainRuns.runSteps {s t : State} (h : MainRuns s t) (hq : Quiet s) : ∃ k, runSteps k s = .next t := by
  induction h using Relation.ReflTransGen.head_induction_on with
  | refl => exact ⟨0, rfl⟩
  | head h1 _ ih =>
    obtain ⟨k, hk⟩ := ih (h1.quiet hq)
    exact ⟨k + 1, by rw [Machine.runSteps, hq.step h1.step]; exact hk⟩

/-- Inside a mode, the ports acquired and no handshake in progress. -/
structure AtRest (s : State) : Prop where
  started : s.top ≠ .start
  running : s.top ≠ .exit
  idle : s.main.hs = .idle
  acquired : s.acquired = true

/-- At rest stays what keeps the mode, the ports and MAIN's sequencer. -/
theorem AtRest.of_kept {s t : State} (h : AtRest s) (htop : t.top = s.top) (hmain : t.main = s.main)
    (hacq : t.acquired = s.acquired) : AtRest t :=
  ⟨htop ▸ h.started, htop ▸ h.running, hmain ▸ h.idle, hacq ▸ h.acquired⟩

/-- A transaction of MAIN that is over leaves it at rest. -/
theorem AtRest.of_engine {s t : State} (h : AtRest s) (hf : EngineFrame .main s t) (hidle : t.main.hs = .idle) :
    AtRest t := by
  obtain ⟨-, hacq, htop, -⟩ := hf.kept
  exact ⟨htop ▸ h.started, htop ▸ h.running, hidle, hacq.trans h.acquired⟩

/-- Inside a mode MAIN's step goes by its position. -/
theorem mainStep_mode {s : State} (hstart : s.top ≠ .start) (hexit : s.top ≠ .exit) : mainStep s = phaseStep s := by
  cases h : s.top with
  | start => exact absurd h hstart
  | exit => exact absurd h hexit
  | _ => simp only [mainStep, h]

/-- A step of a mode that makes no access. -/
theorem AtRest.to_local {s u : State} (h : AtRest s) (hstep : phaseStep s = local_ u)
    (hkept : u.issue = s.issue ∧ u.g = s.g ∧ u.armed = s.armed) : MainTo s (ecAdvance u) := by
  obtain ⟨hissue, hg, harmed⟩ := hkept
  exact ⟨by rw [mainStep_mode h.started h.running, hstep]; rfl, hissue, hg, harmed⟩

/-! ## A handshake inside a run -/

theorem pollOnce_hs {ctx : Ctx} {f : Flag} {e m : Bool} {s t : State} {r : Poll}
    (h : pollOnce ctx f e m s = .next (r, t)) : (latches ctx t).hs = (latches ctx s).hs := (pollOnce_frame h).2.2

theorem writeWaitStep_busy {ctx : Ctx} {after : Hs} {m : Bool} {s t : State} (hs : (latches ctx s).hs ≠ .idle)
    (h : writeWaitStep ctx after m s = .next (.busy, t)) : (latches ctx t).hs ≠ .idle := by
  obtain ⟨r, u, hu, hk⟩ := andThen_eq_next h
  cases r with
  | hit =>
    dsimp only at hk
    split at hk <;> cases hk
    rwa [goto_hs]
  | miss => cases hk; rwa [pollOnce_hs hu]
  | timeout => cases hk

theorem sendStep_busy {ctx : Ctx} {q : Port} {v : Byte} {after : Hs} {s t : State}
    (h : sendStep ctx q v after s = .next (.busy, t)) : (latches ctx t).hs ≠ .idle := by
  obtain ⟨r, u, hu, hk⟩ := andThen_eq_next h
  split at hk <;> cases hk
  rwa [goto_hs]

theorem readWaitStep_busy {ctx : Ctx} {f : Flag} {e : Bool} {after : Hs} {m : Bool} {s t : State}
    (hs : (latches ctx s).hs ≠ .idle) (hafter : after ≠ .idle)
    (h : readWaitStep ctx f e after m s = .next (.busy, t)) : (latches ctx t).hs ≠ .idle := by
  unfold readWaitStep at h
  split at h
  · cases h
    rwa [goto_hs]
  · obtain ⟨r, u, hu, hk⟩ := andThen_eq_next h
    cases r with
    | hit => cases hk; rwa [goto_hs]
    | miss => cases hk; rwa [pollOnce_hs hu]
    | timeout =>
      dsimp only at hk
      split at hk <;> cases hk
      rwa [setLate, latches_setLatches, pollOnce_hs hu]

/-- A handshake that is not over is at a position of its table. -/
theorem handshakeStep_busy {ctx : Ctx} {s t : State} (h : handshakeStep ctx s = .next (.busy, t)) :
    (latches ctx t).hs ≠ .idle := by
  cases he : (latches ctx s).hs <;> simp only [handshakeStep, he] at h
  case idle => cases h
  case wWait1 | wWait2 | wWait3 | wWait4 => exact writeWaitStep_busy (by rw [he]; exact Hs.noConfusion) h
  case wCmd | wAddr | wData | rCmd | rAddr => exact sendStep_busy h
  case rWait1 | rWait2 | rWait3 => exact readWaitStep_busy (by rw [he]; exact Hs.noConfusion) Hs.noConfusion h
  case rData =>
    obtain ⟨b, u, hu, hk⟩ := andThen_eq_next h
    cases hk

theorem EngineFrame.quiet_kept {ctx : Ctx} {s t : State} (h : EngineFrame ctx s t) :
    t.issue = s.issue ∧ t.g = s.g ∧ t.armed = s.armed := by
  rw [h]
  cases ctx <;> exact ⟨rfl, rfl, rfl⟩

/-- A handshake of MAIN, in a mode whose step `k` of it says how the mode goes on: at least one step. -/
theorem handshake_mainRuns {k : Progress → State → Res Unit} {n : Nat} {s t w : State} {p : Progress}
    (hstep : ∀ v, EngineFrame .main s v → v.main.hs ≠ .idle → mainStep v = andThen (handshakeStep .main v) k)
    (hbusy : ∀ v, k .busy v = made v) (hs : s.main.hs ≠ .idle) (hrun : runHandshake .main n s = .next (p, t))
    (hp : p ≠ .busy) (hend : k p t = made w) (hw : w.issue = t.issue ∧ w.g = t.g ∧ w.armed = t.armed) :
    ∃ u, MainTo s u ∧ MainRuns u w := by
  induction n generalizing s with
  | zero => cases hrun; exact absurd rfl hp
  | succ n ih =>
    obtain ⟨q, u, hu, hrest⟩ := andThen_eq_next hrun
    have hf := (handshakeStep_frame hu).1
    have hmain : mainStep s = k q u := by rw [hstep s (.refl _ _) hs, hu, andThen_next]
    have last : q = p → u = t → ∃ u, MainTo s u ∧ MainRuns u w := by
      rintro rfl rfl
      obtain ⟨hissue, hg, harmed⟩ := hw
      obtain ⟨hissue', hg', harmed'⟩ := hf.quiet_kept
      exact ⟨w, ⟨hmain.trans hend, hissue.trans hissue', hg.trans hg', harmed.trans harmed'⟩, .refl⟩
    cases q with
    | busy =>
      obtain ⟨hissue, hg, harmed⟩ := hf.quiet_kept
      obtain ⟨v, hv, hvw⟩ := ih (fun v hv => hstep v (hf.trans hv)) (handshakeStep_busy hu) hrest
      exact ⟨u, ⟨hmain.trans (hbusy u), hissue, hg, harmed⟩, .head hv hvw⟩
    | done => cases hrest; exact last rfl rfl
    | failed i => cases hrest; exact last rfl rfl

/-! ## A duty write inside a run -/

/-- The state at a position of MAIN. -/
def atPhase (p : Phase) (s : State) : State := { s with phase := p }

/-- The position after an operation, by its result. -/
def endPhase {α : Type} (ok : Phase) (bad : TimeoutInfo → Phase) (r : Except TimeoutInfo α) : Phase :=
  match r with
  | .ok _ => ok
  | .error i => bad i

/-- How a mode goes on after a step of its write. -/
def afterHandshake (ok : Phase) (bad : TimeoutInfo → Phase) (p : Progress) (t : State) : Res Unit :=
  match p with
  | .busy => made t
  | .done => made (atPhase ok t)
  | .failed i => made (atPhase (bad i) t)

theorem afterHandshake_progressOf {α : Type} (ok : Phase) (bad : TimeoutInfo → Phase) (x : Except TimeoutInfo α)
    (t : State) : afterHandshake ok bad (progressOf x) t = made (atPhase (endPhase ok bad x) t) := by
  cases x <;> rfl

theorem progressOf_ne_busy {α : Type} (x : Except TimeoutInfo α) : progressOf x ≠ .busy := by
  cases x <;> exact Progress.noConfusion

/-- A step of a mode at its duty write: the write is begun at rest, and its table makes one step otherwise. -/
def writeStep (d : Duty) (ok : Phase) (bad : TimeoutInfo → Phase) (s : State) : Res Unit :=
  if s.main.hs = .idle then local_ (beginDutyWrite .main d s)
  else andThen (handshakeStep .main s) (afterHandshake ok bad)

theorem loopWriteStep_eq (s : State) : loopWriteStep s = writeStep s.pending .lWritten .lWriteFailed s := by
  rw [loopWriteStep, writeStep]
  congr 1

theorem oneShotWriteStep_eq (s : State) :
    oneShotWriteStep s = writeStep (commandDuty s.cmd) (.osPoll .fanDuty) .osFailed s := by
  rw [oneShotWriteStep, writeStep]
  congr 1

/-- A mode that stands at a duty write as long as its handshake lasts, writes the duty. -/
theorem writeDuty_mainRuns {s : State} {d : Duty} {ok : Phase} {bad : TimeoutInfo → Phase} (hs : AtRest s)
    (hstep : ∀ v, EngineFrame .main s v → phaseStep v = writeStep d ok bad v) :
    ∃ x t, writeDuty .main d s = .next (x, t) ∧ AtRest t ∧ MainRuns s (atPhase (endPhase ok bad x) t) := by
  obtain ⟨x, tr, t, ht, hf, -, -, -, -, hl⟩ :=
    ecWrite_next .main s.cfg.board.fanDutyWrAddr (dutyEnc d) (ecAdvance s) hs.acquired
  have hfs : EngineFrame .main s t := ((ecAdvance_frame s).engine .main).trans hf
  have hstart : EngineFrame .main s (beginWrite .main s.cfg.board.fanDutyWrAddr (dutyEnc d) (ecAdvance s)) := rfl
  have hbegin : MainTo s (beginWrite .main s.cfg.board.fanDutyWrAddr (dutyEnc d) (ecAdvance s)) :=
    hs.to_local (u := beginDutyWrite .main d s) (by rw [hstep s (.refl _ s), writeStep, if_pos hs.idle])
      ⟨rfl, rfl, rfl⟩
  have hbusy : ∀ v, EngineFrame .main s v → v.main.hs ≠ .idle →
      mainStep v = andThen (handshakeStep .main v) (afterHandshake ok bad) := by
    intro v hv hne
    obtain ⟨-, -, htop, -⟩ := hv.kept
    rw [mainStep_mode (htop ▸ hs.started) (htop ▸ hs.running), hstep v hv, writeStep, if_neg hne]
  have hrun : runHandshake .main 403 (beginWrite .main s.cfg.board.fanDutyWrAddr (dutyEnc d) (ecAdvance s)) =
      .next (progressOf x, t) := by
    rw [writeTableRefinesEcWrite .main _ _ _, ht, andThen_next]
  obtain ⟨u, hu, huw⟩ :=
    handshake_mainRuns (fun v hv => hbusy v (hstart.trans hv)) (fun _ => rfl) Hs.noConfusion hrun
    (progressOf_ne_busy x) (afterHandshake_progressOf ok bad x t) ⟨rfl, rfl, rfl⟩
  exact ⟨x, t, ht, hs.of_engine hfs (by rw [← latches_main t, hl]), .head hbegin (.head hu huw)⟩

/-! ## One pass of the loop (O58) -/

/-- An operation as a whole and a run of MAIN's steps that end in the same state. -/
def Refines (s : State) (r : Res Unit) : Prop := ∃ t, r = .next ((), t) ∧ MainRuns s t

theorem Refines.step {s t : State} {r : Res Unit} (h : MainTo s t) (hr : Refines t r) : Refines s r := by
  obtain ⟨u, hu, hrun⟩ := hr
  exact ⟨u, hu, .head h hrun⟩

theorem Refines.last {s t : State} (h : MainTo s t) : Refines s (.next ((), t)) := ⟨t, rfl, .single h⟩

/-- The end of a pass: the sleep (R185). -/
theorem sleep_refines {s : State} (h : AtRest s) (hphase : s.phase = .lSleep) :
    MainTo s (ecAdvance (sleepStep s)) :=
  h.to_local (by rw [phaseStep, hphase]) ⟨rfl, rfl, rfl⟩

/-- The write of a tick and what is recorded after it (R183). -/
theorem write_refines {s t : State} {n : Duty} {x : Except TimeoutInfo Unit} (h : AtRest s) (hphase : s.phase = .lWrite)
    (hn : s.pending = n) (ht : writeDuty .main n s = .next (x, t)) :
    AtRest t ∧ ∃ u, MainRuns s u ∧ MainTo u (ecAdvance (afterWrite x t)) := by
  have hstep : ∀ v, EngineFrame .main s v → phaseStep v = writeStep n .lWritten .lWriteFailed v := by
    intro v hv
    have hphase' : v.phase = .lWrite := by rw [hv, ← hphase]; rfl
    have hn' : v.pending = n := by rw [hv, ← hn]; rfl
    rw [phaseStep, hphase']
    dsimp only
    rw [loopWriteStep_eq, hn']
  obtain ⟨x', t', ht', hrest, hrun⟩ := writeDuty_mainRuns h hstep
  rw [ht] at ht'
  cases ht'
  refine ⟨hrest, _, hrun, ?_⟩
  have hend : AtRest (atPhase (endPhase .lWritten .lWriteFailed x) t) := hrest.of_kept rfl rfl rfl
  cases x with
  | ok _ => exact hend.to_local (u := writtenStep (atPhase .lWritten t)) rfl ⟨rfl, rfl, rfl⟩
  | error i => exact hend.to_local (u := writeFailedStep i (atPhase (.lWriteFailed i) t)) rfl ⟨rfl, rfl, rfl⟩

/-- The tick from its decision on (R182, R183, R185). -/
theorem decideAndWrite_refines {s : State} (h : AtRest s) (hphase : s.phase = .lDecide) :
    Refines s (decideAndWrite s) := by
  have hstep : phaseStep s = local_ (decideStep s) := by rw [phaseStep, hphase]
  obtain hno | ⟨n, hn, hw⟩ := decision_cases s.cs
  · have hdec := decideStep_keeps hno
    rw [decideAndWrite_keeps hdec]
    refine .step (h.to_local (hstep.trans (congrArg local_ hdec)) ⟨rfl, rfl, rfl⟩) (.last (sleep_refines ?_ rfl))
    exact h.of_kept rfl rfl rfl
  · have hdec := decideStep_writes hn hw
    have hrest : AtRest (ecAdvance { s with pending := n, phase := .lWrite }) := h.of_kept rfl rfl rfl
    obtain ⟨x, tr, t, ht, -⟩ := writeDuty_next n _ hrest.acquired
    obtain ⟨hrest', u, hrun, hlast⟩ := write_refines hrest rfl rfl ht
    rw [decideAndWrite_writes hdec ht]
    refine .step (h.to_local (hstep.trans (congrArg local_ hdec)) ⟨rfl, rfl, rfl⟩)
      ⟨_, rfl, (hrun.tail hlast).tail ?_⟩
    cases x with
    | ok _ => exact sleep_refines (hrest'.of_kept rfl rfl rfl) rfl
    | error i => exact sleep_refines (hrest'.of_kept rfl rfl rfl) rfl

/-- A bulk read that failed: the run ends, or the tick is over (R181). -/
theorem snapFailed_refines {s : State} {e : SnapFailure} (h : AtRest s) :
    MainTo (atSnapFailed e s) (ecAdvance (snapFailedStep e (atSnapFailed e s))) := by
  have hrest : AtRest (atSnapFailed e s) := h.of_kept rfl rfl rfl
  refine hrest.to_local rfl ?_
  cases e <;> exact ⟨rfl, rfl, rfl⟩

/-- The tick from its bulk read on (R181). -/
theorem snapAndDecide_refines {s : State} (h : AtRest s) (hphase : s.phase = .lSnap) :
    Refines s (snapAndDecide s) := by
  have hstep : phaseStep s = local_ (snapStep s) := by rw [phaseStep, hphase]
  have failed : ∀ e, snapRead s = (.error e, (drawSnap s).2) → MainTo s (atSnapFailed e s) := fun e he =>
    h.to_local (hstep.trans (congrArg local_ (snapStep_error he))) ⟨rfl, rfl, rfl⟩
  have soft : ∀ e, e ≠ .openFail → snapRead s = (.error e, (drawSnap s).2) → Refines s (snapAndDecide s) := by
    intro e hne he
    rw [snapAndDecide_soft hne he]
    have hover : MainTo (ecAdvance (snapFailedStep e (atSnapFailed e s)))
        (ecAdvance (sleepStep (ecAdvance (emit (softEvent e) (atSnapFailed e s))))) := by
      cases e with
      | openFail => exact absurd rfl hne
      | readError | sizeMismatch => exact sleep_refines (h.of_kept rfl rfl rfl) rfl
    exact .step (failed e he) (.step (snapFailed_refines h) (.last hover))
  cases hsnap : nextSnap s with
  | openFail =>
    rw [snapAndDecide_openFail hsnap]
    exact .step (failed _ (snapRead_openFail hsnap)) (.last (snapFailed_refines h))
  | readError => exact soft _ SnapFailure.noConfusion (snapRead_readError hsnap)
  | bytes bs =>
    by_cases hl : bs.length = 256
    · rw [snapAndDecide_full hsnap hl]
      have hread := h.to_local
        (hstep.trans (congrArg local_ (snapStep_ok (snapRead_full hsnap hl)))) ⟨rfl, rfl, rfl⟩
      refine .step hread (.step (AtRest.to_local ?_ rfl ⟨rfl, rfl, rfl⟩) (decideAndWrite_refines ?_ rfl))
      · exact h.of_kept rfl rfl rfl
      · exact h.of_kept rfl rfl rfl
    · exact soft _ SnapFailure.noConfusion (snapRead_short hsnap hl)

theorem runTick_refines {s : State} (h : AtRest s) (hphase : s.phase = .lHead) : Refines s (runTick s) := by
  have hstep : phaseStep s = local_ (headStep s) := by rw [phaseStep, hphase]
  cases hrun : s.run with
  | false =>
    rw [runTick_cleared hrun]
    exact .last (h.to_local (hstep.trans (congrArg local_ (headStep_cleared hrun))) ⟨rfl, rfl, rfl⟩)
  | true =>
    rw [runTick_running hrun]
    refine .step (h.to_local (hstep.trans (congrArg local_ (headStep_running hrun))) ⟨rfl, rfl, rfl⟩)
      (snapAndDecide_refines ?_ rfl)
    exact h.of_kept rfl rfl rfl

/-- Settles O58: the pass as a whole and its steps end in the same state. -/
theorem loopStepsRefineTick : Obligations.LoopStepsRefineTick := by
  intro s htop hphase hidle hacq
  have hrest : AtRest s := ⟨by rw [htop]; exact Top.noConfusion, by rw [htop]; exact Top.noConfusion, hidle, hacq⟩
  obtain ⟨t, htick, hrun⟩ := runTick_refines hrest hphase
  obtain ⟨k, hk⟩ := hrun.runMain
  exact ⟨k, t, htick, hk, exec_tick hrest.running htick⟩

end Sys2Proof.Machine
end

section
/-! # The one-shot modes, step by step (O59)

A mode stands at another position at each read, where the whole operation keeps the one it was issued at. No
access reads the position, so a transaction from any position is the same transaction. -/

namespace Sys2Proof.Machine

/-! ## No access reads the position -/

/-- An operation that neither reads nor changes the position of MAIN. -/
def PhaseFree {α : Type} (f : State → Res α) : Prop :=
  ∀ p s, f (atPhase p s) = andThen (f s) fun a t => .next (a, atPhase p t)

theorem PhaseFree.next {α : Type} (a : α) {f : State → State} (h : ∀ p s, f (atPhase p s) = atPhase p (f s)) :
    PhaseFree fun s => .next (a, f s) :=
  fun p s => congrArg (fun t => Host.Outcome.next (a, t)) (h p s)

theorem PhaseFree.andThen {α β : Type} {f : State → Res α} {g : α → State → Res β} (hf : PhaseFree f)
    (hg : ∀ a, PhaseFree (g a)) : PhaseFree fun s => Machine.andThen (f s) g := by
  intro p s
  dsimp only
  rw [hf, andThen_assoc, andThen_assoc]
  congr 1
  funext a t
  exact hg a p t

theorem PhaseFree.orReturn {α β ε : Type}
    {f : State → Res (Except ε α)} {g : α → State → Res (Except ε β)}
    (hf : PhaseFree f) (hg : ∀ a, PhaseFree (g a)) : PhaseFree fun s => Machine.orReturn (f s) g := by
  refine hf.andThen fun x => ?_
  cases x with
  | ok a => exact hg a
  | error e => exact .next _ fun _ _ => rfl

theorem readPort_phaseFree (q : Port) (d : Bool) : PhaseFree (readPort q d) := by
  intro p s
  cases ha : s.acquired with
  | false => rw [readPort_fault q d s ha, readPort_fault q d (atPhase p s) ha, andThen_fault]
  | true =>
    have ha' : (atPhase p s).acquired = true := ha
    simp only [readPort, ha, ha', if_true]
    cases q with
    | sc => rfl
    | data =>
      have hec : (atPhase p s).ec = s.ec := rfl
      rw [hec]
      cases s.ec.obf && !s.ec.corrupt <;> cases d <;> rfl

theorem portOut_phaseFree (q : Port) (v : Byte) : PhaseFree (portOut q v) := by
  intro p s
  cases ha : s.acquired with
  | false => rw [portOut_fault q v s ha, portOut_fault q v (atPhase p s) ha, andThen_fault]
  | true =>
    rw [portOut_eq q v s ha, portOut_eq q v (atPhase p s) ha]
    rfl

theorem PhaseFree.withTurn {α : Type} {f : State → Res α} (hf : PhaseFree f) :
    PhaseFree fun s => Machine.withTurn (f s) :=
  hf.andThen fun a => .next a fun _ _ => rfl

theorem send_phaseFree (q : Port) (v : Byte) : PhaseFree (send q v) := (portOut_phaseFree q v).withTurn

theorem pollOnce_phaseFree (f : Flag) (e m : Bool) : PhaseFree (pollOnce .main f e m) := by
  refine (readPort_phaseFree .sc true).andThen fun b p t => ?_
  have hcfg : (atPhase p t).cfg = t.cfg := rfl
  have hpolls : (latches .main (atPhase p t)).pollN = (latches .main t).pollN := rfl
  rw [hcfg, hpolls]
  dsimp only
  repeat' split
  · rfl
  · cases m <;> rfl
  · rfl

theorem pollUpTo_phaseFree (f : Flag) (e m : Bool) (n : Nat) : PhaseFree (pollUpTo .main f e m n) := by
  induction n with
  | zero => exact .next _ fun _ _ => rfl
  | succ n ih =>
    refine (pollOnce_phaseFree f e m).andThen fun r => ?_
    cases r with
    | hit => exact .next _ fun _ _ => rfl
    | timeout => exact .next _ fun _ _ => rfl
    | miss => exact ih

theorem readWait_phaseFree (f : Flag) (e m : Bool) : PhaseFree (readWait .main f e m) := by
  intro p s
  rw [readWait_eq, readWait_eq]
  refine PhaseFree.andThen (f := fun s => waitfor .main f e (readMidway m s) s) (fun p s => ?_) (fun r p t => ?_) p s
  · exact pollUpTo_phaseFree f e (readMidway m s) _ p (setPollN .main 0 s)
  · cases r with
    | ok _ => rfl
    | error i =>
      have hcfg : (atPhase p t).cfg = t.cfg := rfl
      simp only [readAnswer, hcfg]
      cases t.cfg.readPolicy <;> rfl

theorem readDataPart_phaseFree : PhaseFree (readDataPart .main) :=
  (readWait_phaseFree .obf true true).orReturn fun settled =>
    (readPort_phaseFree .data settled).withTurn.andThen fun _ => .next _ fun _ _ => rfl

theorem readAddrPart_phaseFree : PhaseFree (readAddrPart .main) :=
  (readWait_phaseFree .ibf false true).orReturn fun _ =>
    PhaseFree.andThen (f := fun s => send .data (latches .main s).addrL s)
      (fun p s => send_phaseFree .data (latches .main s).addrL p s) fun _ => readDataPart_phaseFree

theorem ecRead_phaseFree (a : Byte) : PhaseFree (ecRead .main a) := by
  intro p s
  refine ((readWait_phaseFree .ibf false false).orReturn fun _ => ?_) p (startRead .main .idle a s)
  exact PhaseFree.andThen (f := fun s => send .sc s.cfg.board.ecCmdRead s)
    (fun p s => send_phaseFree .sc s.cfg.board.ecCmdRead p s) fun _ => readAddrPart_phaseFree

/-! ## A stretch of a one-shot mode -/

/-- A stretch of a one-shot mode from the position `p`: the operation `r` as a whole, made at `s` whatever its
position, and a run of MAIN's steps to the position `q`, or to the failure. -/
def RunsAs {α : Type} (p q : Phase) (s : State) (r : Res (Except TimeoutInfo α)) : Prop :=
  ∃ x t, r = .next (x, t) ∧ AtRest t ∧ MainRuns (atPhase p s) (atPhase (endPhase q .osFailed x) t)

theorem RunsAs.orReturn {α β : Type} {p q q' : Phase} {s : State} {r : Res (Except TimeoutInfo α)}
    {k : α → State → Res (Except TimeoutInfo β)} (h : RunsAs p q s r)
    (hk : ∀ a t, AtRest t → RunsAs q q' t (k a t)) : RunsAs p q' s (Machine.orReturn r k) := by
  obtain ⟨x, t, rfl, ht, hrun⟩ := h
  cases x with
  | error i => exact ⟨.error i, t, rfl, ht, hrun⟩
  | ok a =>
    obtain ⟨y, u, hu, hrest, hrun'⟩ := hk a t ht
    exact ⟨y, u, hu, hrest, hrun.trans hrun'⟩

/-! ## The polled reads (R172) -/

/-- The position after a polled read that answered. -/
def afterRead (r : Polled) : Phase :=
  match nextPolled r with
  | some r' => .osPoll r'
  | none => .osDecode .duty

/-- How a polled snapshot goes on after a step of a read. -/
def afterPollStep (r : Polled) (p : Progress) (t : State) : Res Unit :=
  match p with
  | .busy => made t
  | .done => made (atPhase (afterRead r) { t with raws := setRaw r t.main.resL t.raws })
  | .failed i => made (atPhase (.osFailed i) t)

/-- A step of a polled read: the read is begun where none is in progress, and its table makes one step. -/
theorem oneShotPollStep_eq (r : Polled) (s : State) :
    oneShotPollStep r s =
      andThen (handshakeStep .main (if s.main.hs = .idle then beginRead .main (polledReg s.cfg r) s else s))
        (afterPollStep r) := by
  rw [oneShotPollStep]
  congr 1
  funext p t
  cases p with
  | done => cases r <;> rfl
  | _ => rfl

/-- A step of a mode that is at a polled read with its table in progress. -/
theorem mainStep_polling {r : Polled} {v : State} (hstart : v.top ≠ .start) (hexit : v.top ≠ .exit)
    (hphase : v.phase = .osPoll r) (hbusy : v.main.hs ≠ .idle) :
    mainStep v = andThen (handshakeStep .main v) (afterPollStep r) := by
  rw [mainStep_mode hstart hexit, phaseStep, hphase]
  dsimp only
  rw [oneShotPollStep_eq, if_neg hbusy]

/-- The first step of a polled read begins it, and makes its first poll too (log 13). -/
theorem mainStep_beginRead {r : Polled} {s : State} (h : AtRest s) (hphase : s.phase = .osPoll r) :
    mainStep s = mainStep (beginRead .main (polledReg s.cfg r) s) := by
  rw [mainStep_polling (v := beginRead .main (polledReg s.cfg r) s) h.started h.running hphase Hs.noConfusion,
    mainStep_mode h.started h.running, phaseStep, hphase]
  dsimp only
  rw [oneShotPollStep_eq, if_pos h.idle]

/-- Once a read is over, the mode goes on as the whole polled read does. -/
theorem afterPollStep_progressOf {r : Polled} {s t : State} {x : Except TimeoutInfo Byte}
    (h : ecRead .main (polledReg s.cfg r) s = .next (x, t)) (hbyte : ∀ b, x = .ok b → t.main.resL = b) :
    ∃ y u, polledRead r s = .next (y, u) ∧ u = { t with raws := u.raws } ∧
      ∀ p, afterPollStep r (progressOf x) (atPhase p t) = made (atPhase (endPhase (afterRead r) .osFailed y) u) := by
  rw [polledRead, h]
  cases x with
  | error i => exact ⟨.error i, t, rfl, rfl, fun _ => rfl⟩
  | ok b =>
    obtain rfl := hbyte b rfl
    exact ⟨.ok (), { t with raws := setRaw r t.main.resL t.raws }, rfl, rfl, fun _ => rfl⟩

theorem polledRead_runsAs (r : Polled) {s : State} (h : AtRest s) :
    RunsAs (.osPoll r) (afterRead r) s (polledRead r s) := by
  obtain ⟨x, b, tr, evs, t, ht, hf, -, -, -, hbyte, hidle, -⟩ := ecRead_main_next (polledReg s.cfg r) s h.acquired
  obtain ⟨y, u, hu, hut, hend⟩ := afterPollStep_progressOf ht fun b' hx => (hbyte b' hx).2
  have hrest : AtRest u := by
    rw [hut]
    exact (h.of_engine hf hidle.1).of_kept rfl rfl rfl
  have hs : AtRest (atPhase (.osPoll r) s) := h.of_kept rfl rfl rfl
  have hrun : runHandshake .main 306 (beginRead .main (polledReg s.cfg r) (atPhase (.osPoll r) s)) =
      .next (progressOf x, atPhase (.osPoll r) t) := by
    rw [readTableRefinesEcRead .main _ _, ecRead_phaseFree, ht, andThen_next, andThen_next]
  have hstep : ∀ v, EngineFrame .main (beginRead .main (polledReg s.cfg r) (atPhase (.osPoll r) s)) v →
      v.main.hs ≠ .idle → mainStep v = andThen (handshakeStep .main v) (afterPollStep r) := by
    intro v hv hbusy
    obtain ⟨-, -, htop, -, -, -, -, -, hphase, -⟩ := hv.kept
    exact mainStep_polling (by rw [htop]; exact h.started) (by rw [htop]; exact h.running) hphase hbusy
  obtain ⟨v, ⟨hv, hissue, hg, harmed⟩, hvu⟩ := handshake_mainRuns hstep (fun _ => rfl) Hs.noConfusion hrun
    (progressOf_ne_busy x) (hend _) (by rw [hut]; exact ⟨rfl, rfl, rfl⟩)
  exact ⟨y, u, hu, hrest, .head ⟨(mainStep_beginRead hs rfl).trans hv, hissue, hg, harmed⟩ hvu⟩

/-! ## The decodes and the end of a one-shot mode -/

/-- The position after a decode. -/
def afterDecode (f : Field) : Phase :=
  match nextField f with
  | some f' => .osDecode f'
  | none => .osDump

/-- A decode is one step, from any position of the whole operation (R16, R172). -/
theorem decode_mainTo (f : Field) {s : State} (h : AtRest s) :
    AtRest (ecAdvance (decodeFieldStep f s)) ∧
      MainTo (atPhase (.osDecode f) s) (atPhase (afterDecode f) (ecAdvance (decodeFieldStep f s))) := by
  have hs : AtRest (atPhase (.osDecode f) s) := h.of_kept rfl rfl rfl
  have hto := hs.to_local (u := oneShotDecodeStep f (atPhase (.osDecode f) s)) rfl
    (by cases f <;> exact ⟨rfl, rfl, rfl⟩)
  refine ⟨h.of_kept rfl rfl rfl, ?_⟩
  cases f <;> exact hto

theorem decodePolled_runsAs {s : State} (h : AtRest s) :
    RunsAs (.osDecode .duty) .osDump s (.next (.ok (decodePolled s).fields, decodePolled s)) := by
  obtain ⟨h1, hto1⟩ := decode_mainTo .duty h
  obtain ⟨h2, hto2⟩ := decode_mainTo .rpm h1
  obtain ⟨h3, hto3⟩ := decode_mainTo .cpuTemp h2
  obtain ⟨h4, hto4⟩ := decode_mainTo .gpuTemp h3
  exact ⟨.ok (decodePolled s).fields, decodePolled s, rfl, h4, .head hto1 (.head hto2 (.head hto3 (.single hto4)))⟩

/-- The polled snapshot as a whole and step by step (R172). -/
theorem polledSnapshot_runsAs {s : State} (h : AtRest s) :
    RunsAs (.osPoll .fanDuty) .osDump s (polledSnapshot s) :=
  (polledRead_runsAs .fanDuty h).orReturn fun _ _ h =>
  (polledRead_runsAs .rpmHi h).orReturn fun _ _ h =>
  (polledRead_runsAs .rpmLo h).orReturn fun _ _ h =>
  (polledRead_runsAs .cpuTemp h).orReturn fun _ _ h =>
  (polledRead_runsAs .gpuTemp h).orReturn fun _ _ h => decodePolled_runsAs h

/-- A fatal timeout of a one-shot mode is one step (R202, R203). -/
theorem oneShotFailed_mainTo {s : State} {i : TimeoutInfo} (h : AtRest s) :
    MainTo (atPhase (.osFailed i) s) (ecAdvance (oneShotFailed i (atPhase (.osFailed i) s))) :=
  AtRest.to_local (h.of_kept rfl rfl rfl) rfl ⟨rfl, rfl, rfl⟩

/-- The report as a whole and step by step (R173). -/
theorem reportAndExit_runs {s : State} (h : AtRest s) :
    ∃ r t, reportAndExit s = .next (r, t) ∧ t.top = .exit ∧ MainRuns (atPhase (.osPoll .fanDuty) s) t := by
  obtain ⟨x, t, ht, hrest, hrun⟩ := polledSnapshot_runsAs h
  rw [reportAndExit, ht, andThen_next]
  cases x with
  | ok f =>
    have hend : AtRest (atPhase .osDump t) := hrest.of_kept rfl rfl rfl
    exact ⟨.fields f, _, rfl, rfl, hrun.tail (hend.to_local rfl ⟨rfl, rfl, rfl⟩)⟩
  | error i => exact ⟨.err (.timeout i), _, rfl, rfl, hrun.tail (oneShotFailed_mainTo hrest)⟩

/-! ## The host command (O59) -/

/-- Taking a command arms nothing (R170). -/
theorem takeCommand_quiet (c : HostCommand) {s : State} (hq : Quiet s) : Quiet (takeCommand c s).2 := by
  by_cases hc : c = .invalid
  · subst hc
    exact ⟨hq.issue, hq.g, hq.armed⟩
  · cases hp : s.priv with
    | false => rw [takeCommand_denied hc hp]; exact ⟨hq.issue, hq.g, hq.armed⟩
    | true => rw [takeCommand_ok hc hp]; exact ⟨hq.issue, hq.g, hq.armed⟩

/-- A run from start-up: the step that takes the command, then MAIN's steps in the mode. -/
theorem runSteps_of_command {s t : State} {c : HostCommand} (hq : Quiet s) (ht : s.top = .start)
    (hc : decodeInvocation s.invocation = c) (hrun : MainRuns (ecAdvance (takeCommand c s).2) t) :
    ∃ k, runSteps k s = .next t := by
  have hq' := takeCommand_quiet c hq
  obtain ⟨k, hk⟩ := hrun.runSteps ⟨hq'.issue, hq'.g, hq'.armed⟩
  refine ⟨k + 1, ?_⟩
  rw [runSteps, step_start hq ht, hc]
  exact hk

/-- A command that is refused, as a whole (R201, R206). -/
theorem exec_refused {c : HostCommand} {s t : State} {e : Err} (hs : s.top ≠ .exit)
    (h : takeCommand c s = (.error e, t)) : exec c.instr s = .next { ecAdvance t with ret := .err e } := by
  cases c with
  | dump => exact exec_dump hs (by rw [runDump, h])
  | setduty n => exact exec_setduty hs (by rw [runSetduty, h])
  | auto => exact exec_auto hs (by rw [runAuto, h])
  | invalid => exact (exec_invalid hs).trans (by rw [h]; rfl)

/-- A refused command ends the run. -/
theorem takeCommand_error_top {c : HostCommand} {s t : State} {e : Err} (h : takeCommand c s = (.error e, t)) :
    t.top = .exit := by
  by_cases hc : c = .invalid
  · subst hc
    cases h
    rfl
  · cases hp : s.priv with
    | false => rw [takeCommand_denied hc hp] at h; cases h; rfl
    | true => rw [takeCommand_ok hc hp] at h; cases h

/-- A mode is entered at rest. -/
theorem entered_atRest {c : HostCommand} {s : State} (hc : c ≠ .invalid) (hidle : s.main.hs = .idle) :
    AtRest (entered c s) where
  started := by cases c <;> exact Top.noConfusion
  running := modeOf_ne_exit hc
  idle := hidle
  acquired := rfl

/-- `DUMP` as a whole and step by step (R173). -/
theorem runDump_runs {s : State} (hp : s.priv = true) (hidle : s.main.hs = .idle) :
    ∃ r t, runDump s = .next (r, t) ∧ t.top = .exit ∧ MainRuns (entered .dump s) t := by
  rw [runDump_entered hp]
  exact reportAndExit_runs (entered_atRest HostCommand.noConfusion hidle)

/-- The write of `T_SETDUTY` as a whole and step by step (R174). -/
theorem setdutyWrite_runs {s : State} {n : Duty} (h : AtRest s) (hphase : s.phase = .osWrite)
    (hcmd : s.cmd = .setduty n) :
    ∃ x t, writeDuty .main n s = .next (x, t) ∧ AtRest t ∧
      MainRuns s (atPhase (endPhase (.osPoll .fanDuty) .osFailed x) t) := by
  refine writeDuty_mainRuns h fun v hv => ?_
  have hphase' : v.phase = .osWrite := by rw [hv, ← hphase]; rfl
  have hcmd' : v.cmd = .setduty n := by rw [hv, ← hcmd]; rfl
  rw [phaseStep, hphase']
  dsimp only
  rw [oneShotWriteStep_eq, hcmd']
  rfl

/-- `SETDUTY` as a whole and step by step (R174). -/
theorem runSetduty_runs {s : State} (n : Duty) (hp : s.priv = true) (hidle : s.main.hs = .idle) :
    ∃ r t, runSetduty n s = .next (r, t) ∧ t.top = .exit ∧ MainRuns (entered (.setduty n) s) t := by
  obtain ⟨x, t, ht, hrest, hrun⟩ :=
    setdutyWrite_runs (n := n) (entered_atRest (c := .setduty n) HostCommand.noConfusion hidle) rfl rfl
  rw [runSetduty_entered n hp, ht, andThen_next]
  cases x with
  | ok _ =>
    obtain ⟨r, u, hu, htop, hreport⟩ := reportAndExit_runs hrest
    exact ⟨r, u, hu, htop, hrun.trans hreport⟩
  | error i => exact ⟨.err (.timeout i), _, rfl, rfl, hrun.tail (oneShotFailed_mainTo hrest)⟩

/-- Settles O59: a refused command ends the run in one step, `AUTO` is at the head of the loop after two, and the
one-shot modes are followed to their exit. -/
theorem startupStepsRefineTheCommand : Obligations.StartupStepsRefineTheCommand := by
  intro s ht hissue hg harmed hidle
  have hq : Quiet s := ⟨hissue, hg, harmed⟩
  have hs : s.top ≠ .exit := by rw [ht]; exact Top.noConfusion
  generalize hc : decodeInvocation s.invocation = c
  have refused : ∀ e t, takeCommand c s = (.error e, t) →
      ∃ (k : Nat) (t : State) (r : Ret), runSteps k s = .next t ∧ exec c.instr s = .next { t with ret := r } ∧
        (t.top = .exit ∨ (t.top = .auto ∧ t.phase = .lHead)) := by
    intro e t h
    obtain ⟨k, hk⟩ := runSteps_of_command hq ht hc .refl
    rw [h] at hk
    exact ⟨k, _, .err e, hk, exec_refused hs h, .inl ((ecAdvance_top t).trans (takeCommand_error_top h))⟩
  cases hp : s.priv with
  | false =>
    by_cases hinvalid : c = .invalid
    · subst hinvalid
      exact refused _ _ (takeCommand_invalid s)
    · exact refused _ _ (takeCommand_denied hinvalid hp)
  | true =>
    cases c with
    | invalid => exact refused _ _ (takeCommand_invalid s)
    | dump =>
      obtain ⟨r, t, hop, htop, hrun⟩ := runDump_runs hp hidle
      rw [← ecAdvance_takeCommand HostCommand.noConfusion hp] at hrun
      obtain ⟨k, hk⟩ := runSteps_of_command hq ht hc hrun
      exact ⟨k, t, r, hk, exec_dump hs hop, .inl htop⟩
    | setduty n =>
      obtain ⟨r, t, hop, htop, hrun⟩ := runSetduty_runs n hp hidle
      rw [← ecAdvance_takeCommand HostCommand.noConfusion hp] at hrun
      obtain ⟨k, hk⟩ := runSteps_of_command hq ht hc hrun
      exact ⟨k, t, r, hk, exec_setduty hs hop, .inl htop⟩
    | auto =>
      have hquiet : Quiet (entered .auto s) := ⟨hissue, hg, harmed⟩
      have hstart : step s = .next (entered .auto s) := by
        rw [step_start hq ht, hc, ecAdvance_takeCommand HostCommand.noConfusion hp]
      have henter : step (entered .auto s) = .next (ecAdvance (enterLoop (entered .auto s))) := hquiet.step rfl
      refine ⟨2, _, .ok, ?_, exec_auto_entered hs hp, .inr ⟨rfl, rfl⟩⟩
      rw [runSteps, hstart]
      dsimp only
      rw [runSteps, henter]
      rfl

end Sys2Proof.Machine
end

section
/-! # The stop request and its handler (O48, O49, O60)

The handler is one write of the safe duty between its entry and its end. Each of the three is said once, and the
whole operation and the run of the guard's steps are both put together from them. -/

namespace Sys2Proof.Machine

/-! ## The entry and the end of the handler -/

/-- The state in which the handler makes its write: the guard entered, the Running Flag cleared (R211, R212). -/
def guardEntered (s : State) : State := ecAdvance (clearRunStep (enterGuard s))

/-- The position of the guard after its write, by the result (R214, R215). -/
def guardAfter (x : Except TimeoutInfo Unit) : GuardState :=
  match x with
  | .ok _ => .done
  | .error i => .active (.failed i)

/-- The state in which the handler ends, by the result of its write (R214, R215). -/
def guardEnd (x : Except TimeoutInfo Unit) (t : State) : State :=
  match x with
  | .ok _ => leaveGuard t
  | .error i => ecAdvance (guardFailedStep i { t with g := .active (.failed i) })

/-- A stop request is accepted before the end of the run, while the guard is armed and not taken (R211). -/
theorem stopAcceptable_armed {s : State} (ht : s.top ≠ .exit) (harmed : s.armed = true)
    (htaken : s.guardTaken = false) : stopAcceptable s = true := by
  simp [stopAcceptable, ht, harmed, htaken]

theorem stopRequest_accepted {s : State} (h : stopAcceptable s = true) :
    stopRequest s = andThen (writeDuty .guard Config.safeDuty (guardEntered s)) fun x t =>
      .next (retOf (failureOf x), guardEnd x t) := by
  rw [stopRequest, if_pos h, runGuard]
  congr 1
  funext x t
  cases x <;> rfl

theorem stopRequest_refused {s : State} (h : stopAcceptable s = false) : stopRequest s = .next (.none, s) := by
  rw [stopRequest, h, if_neg Bool.false_ne_true]

/-- Settles O49: neither an unarmed nor a taken guard accepts the request. -/
theorem otherStopRequestsHaveNoEffect : Obligations.OtherStopRequestsHaveNoEffect := by
  intro s signal ht h
  have hstop : stopAcceptable s = false := h.elim stopAcceptable_unarmed stopAcceptable_taken
  exact exec_guard ht (stopRequest_refused hstop)

/-! ## The write of the safe duty (O48) -/

/-- The guard's write: one transaction of raw 102, with nothing changed but GUARD's latches, the EC, the inputs
used up and the trace (R212, R213). -/
theorem guardWrite_next {s : State} (h : s.acquired = true) :
    ∃ x tr l e v, writeDuty .guard Config.safeDuty s =
        .next (x, { s with guard := l, ec := e, env := v, trace := s.trace ++ tr }) ∧
      FailFastTrace s.cfg (writeParts s.cfg s.cfg.board.fanDutyWrAddr 102) (failureOf x) tr := by
  have henc : dutyEnc Config.safeDuty = 102 := by decide
  obtain ⟨x, tr, t, ht, hf, hlog, htr, hff, -⟩ :=
    ecWrite_next .guard s.cfg.board.fanDutyWrAddr (dutyEnc Config.safeDuty) (ecAdvance s) h
  rw [henc] at hff
  refine ⟨x, tr, t.guard, t.ec, t.env, ?_, hff⟩
  rw [writeDuty, ht, hf, htr, hlog]
  rfl

/-- The end of a failed handler: the run is ended, and of the EC only its corruption is changed (R214, R50). -/
theorem guardEnd_error (i : TimeoutInfo) (t : State) :
    ∃ e v, guardEnd (.error i) t =
      { t with g := .active (.failed i), log := t.log ++ [.timeoutLogged .guard i], exit := some t.cfg.exitFail,
               top := .exit, csLive := false, ec := e, env := v } := by
  rw [guardEnd, guardFailedStep, giveUp]
  split <;> exact ⟨_, _, rfl⟩

/-- Settles O48: the handler is its entry, one write, and its end by the result. -/
theorem guardWritesTheSafeDuty : Obligations.GuardWritesTheSafeDuty := by
  intro s signal ht hacq harmed htaken
  obtain ⟨x, tr, l, e, v, hw, hff⟩ := guardWrite_next (s := guardEntered s) hacq
  have hop := stopRequest_accepted (stopAcceptable_armed ht harmed htaken)
  rw [hw, andThen_next] at hop
  refine ⟨fun other => exec_guard_signal other signal s, failureOf x, tr, ?_⟩
  cases x with
  | ok _ =>
    exact ⟨_, exec_guard ht hop, rfl, hff, rfl, rfl, ⟨rfl, rfl, rfl, rfl, rfl, rfl, rfl, rfl⟩,
      fun _ => ⟨rfl, rfl, rfl, rfl, rfl, rfl⟩, nofun, rfl⟩
  | error i =>
    obtain ⟨e', v', hend⟩ := guardEnd_error i
      { guardEntered s with guard := l, ec := e, env := v, trace := (guardEntered s).trace ++ tr }
    rw [hend] at hop
    refine ⟨_, exec_guard ht hop, rfl, hff, rfl, rfl, ⟨rfl, rfl, rfl, rfl, rfl, rfl, rfl, rfl⟩, nofun, fun j hj => ?_,
      rfl⟩
    cases hj
    exact ⟨rfl, rfl, rfl, rfl⟩

/-! ## The handler step by step (O60) -/

/-- Steps of the machine, one after another. -/
abbrev StepRuns : State → State → Prop := Relation.ReflTransGen fun s t => step s = .next t

theorem StepRuns.runSteps {s t : State} (h : StepRuns s t) : ∃ k, runSteps k s = .next t := by
  induction h using Relation.ReflTransGen.head_induction_on with
  | refl => exact ⟨0, rfl⟩
  | head h1 _ ih =>
    obtain ⟨k, hk⟩ := ih
    exact ⟨k + 1, by rw [Machine.runSteps, h1]; exact hk⟩

/-- The guard is active at a position, the run is not over, and no operation is issued. -/
structure GuardAt (pos : GuardPos) (s : State) : Prop where
  running : s.top ≠ .exit
  issue : s.issue = none
  g : s.g = .active pos

/-- While the guard is active a step is the guard's (R213). -/
theorem GuardAt.step {pos : GuardPos} {s t : State} (h : GuardAt pos s) (hstep : guardStep pos s = .next ((), t)) :
    step s = .next t := by
  simp only [step_sequencer h.running h.issue, sequencerStep, h.g, hstep]
  rfl

/-- GUARD's handshake leaves the guard where it is. -/
theorem GuardAt.engine {pos : GuardPos} {s t : State} (h : GuardAt pos s) (hf : EngineFrame .guard s t) :
    GuardAt pos t := by
  rw [hf]
  exact ⟨h.running, h.issue, h.g⟩

/-- How the handler goes on after a step of its write. -/
def afterGuardStep (p : Progress) (t : State) : Res Unit :=
  match p with
  | .busy => made t
  | .done => made (leaveGuard t)
  | .failed i => made { t with g := .active (.failed i) }

/-- At its write the guard makes a step of its table, and moves on when the table is done. -/
theorem guardStep_write {s : State} (hs : s.guard.hs ≠ .idle) :
    guardStep .write s = andThen (handshakeStep .guard s) afterGuardStep := by
  simp only [guardStep, if_neg hs]
  congr 1

/-- The table of the guard's write, run to its end by steps of the machine. -/
theorem guardWrite_stepRuns {n : Nat} {s t : State} {x : Except TimeoutInfo Unit} (h : GuardAt .write s)
    (hs : s.guard.hs ≠ .idle) (hrun : runHandshake .guard n s = .next (progressOf x, t)) :
    StepRuns s { t with g := guardAfter x } ∧ GuardAt .write t := by
  induction n generalizing s with
  | zero => cases x <;> cases hrun
  | succ n ih =>
    obtain ⟨p, u, hu, hrest⟩ := andThen_eq_next hrun
    have hat : GuardAt .write u := h.engine (handshakeStep_frame hu).1
    have hstep := guardStep_write hs
    rw [hu, andThen_next] at hstep
    cases p with
    | busy =>
      obtain ⟨hruns, ht⟩ := ih hat (handshakeStep_busy hu) hrest
      exact ⟨.head (h.step hstep) hruns, ht⟩
    | done =>
      cases x <;> cases hrest
      exact ⟨.single (h.step hstep), hat⟩
    | failed i =>
      cases x <;> cases hrest
      exact ⟨.single (h.step hstep), hat⟩

/-- After its write the guard is done, or takes the step that ends the run (R214, R215). -/
theorem guardEnd_stepRuns (x : Except TimeoutInfo Unit) {t : State} (h : GuardAt .write t) :
    StepRuns { t with g := guardAfter x } (guardEnd x t) := by
  cases x with
  | ok _ => exact .refl
  | error i =>
    have hat : GuardAt (.failed i) { t with g := guardAfter (.error i) } := ⟨h.running, h.issue, rfl⟩
    exact .single (hat.step rfl)

/-- The handler's write, begun with GUARD's sequencer idle, and the end after it. -/
theorem safeDuty_stepRuns {s : State} (h : GuardAt .write s) (hidle : s.guard.hs = .idle) (hacq : s.acquired = true) :
    ∃ x t, writeDuty .guard Config.safeDuty s = .next (x, t) ∧ StepRuns s (guardEnd x t) := by
  obtain ⟨x, tr, l, e, v, hw, -⟩ := guardWrite_next hacq
  have hbegin : step s = .next (ecAdvance (beginDutyWrite .guard Config.safeDuty s)) :=
    h.step (by rw [guardStep, if_pos hidle]; rfl)
  have hrun : runHandshake .guard 403 (ecAdvance (beginDutyWrite .guard Config.safeDuty s)) =
      .next (progressOf x, { s with guard := l, ec := e, env := v, trace := s.trace ++ tr }) := by
    have htable := writeTableRefinesEcWrite .guard s.cfg.board.fanDutyWrAddr (dutyEnc Config.safeDuty) (ecAdvance s)
    rw [writeDuty] at hw
    rw [hw, andThen_next] at htable
    exact htable
  have hat : GuardAt .write (ecAdvance (beginDutyWrite .guard Config.safeDuty s)) := ⟨h.running, h.issue, h.g⟩
  obtain ⟨hruns, hend⟩ := guardWrite_stepRuns hat Hs.noConfusion hrun
  exact ⟨x, _, hw, .head hbegin (hruns.trans (guardEnd_stepRuns x hend))⟩

/-- A handler that is over is done, or has ended the run. -/
theorem guardEnd_over (x : Except TimeoutInfo Unit) (t : State) :
    (guardEnd x t).g = .done ∨ (guardEnd x t).top = .exit := by
  cases x with
  | ok _ => exact .inl rfl
  | error i => exact .inr rfl

/-- Settles O60: the first step clears the Running Flag, then the write and its end follow. -/
theorem guardStepsRefineTheHandler : Obligations.GuardStepsRefineTheHandler := by
  intro s signal ht hissue hacq harmed htaken hidle
  have hentry : GuardAt .clear (enterGuard s) := ⟨ht, hissue, rfl⟩
  have hat : GuardAt .write (guardEntered s) := ⟨ht, hissue, rfl⟩
  obtain ⟨x, t, hw, hruns⟩ := safeDuty_stepRuns hat hidle hacq
  obtain ⟨k, hk⟩ := StepRuns.runSteps (.head (hentry.step rfl) hruns)
  have hop : stopRequest s = .next (retOf (failureOf x), guardEnd x t) := by
    rw [stopRequest_accepted (stopAcceptable_armed ht harmed htaken), hw, andThen_next]
  exact ⟨k, guardEnd x t, _, hk, exec_guard ht hop, guardEnd_over x t⟩

end Sys2Proof.Machine
end

section
/-! # The boundary before a step, and the error of `ACQUIRE` (O36, O37, O50)

A step of a mode or of the guard's handler neither takes the guard nor logs a denial (`Ordinary`): the guard is
taken at a boundary only, and a denial is logged at start-up only. -/

namespace Sys2Proof.Machine

/-! ## Ordinary steps -/

/-- The guard is not taken, and the events logged are no denials of privilege. -/
structure Ordinary (s t : State) : Prop where
  taken : t.guardTaken = s.guardTaken
  log : ∃ evs, t.log = s.log ++ evs ∧ .permissionDenied ∉ evs

theorem Ordinary.silent {s t : State} (htaken : t.guardTaken = s.guardTaken) (hlog : t.log = s.log) : Ordinary s t :=
  ⟨htaken, [], by rw [hlog, List.append_nil], List.not_mem_nil⟩

theorem Ordinary.event {s t : State} {e : Event} (htaken : t.guardTaken = s.guardTaken) (hlog : t.log = s.log ++ [e])
    (he : .permissionDenied ≠ e) : Ordinary s t :=
  ⟨htaken, [e], hlog, fun hmem => he (List.mem_singleton.mp hmem)⟩

theorem Ordinary.turn {s t : State} (h : Ordinary s t) : Ordinary s (ecAdvance t) := ⟨h.taken, h.log⟩

/-- What an ordinary step logs, however it is split off. -/
theorem Ordinary.not_denied {s t : State} {evs : List Event} (h : Ordinary s t) (hlog : t.log = s.log ++ evs) :
    .permissionDenied ∉ evs := by
  obtain ⟨-, evs', hlog', hnot⟩ := h
  rwa [List.append_cancel_left (hlog.symm.trans hlog')]

theorem EngineFrame.guardTaken_kept {ctx : Ctx} {s t : State} (h : EngineFrame ctx s t) :
    t.guardTaken = s.guardTaken := by
  obtain ⟨-, -, -, -, -, -, htaken, -⟩ := h.kept
  exact htaken

/-! ## The handshake tables -/

theorem sendStep_log {ctx : Ctx} {q : Port} {v : Byte} {after : Hs} {s t : State} {p : Progress}
    (h : sendStep ctx q v after s = .next (p, t)) : t.log = s.log := by
  obtain ⟨r, u, hu, hk⟩ := andThen_eq_next h
  cases hk
  rw [goto_log, send_frame hu]

theorem dataStep_log {ctx : Ctx} {s t : State} {p : Progress} (h : dataStep ctx s = .next (p, t)) :
    t.log = s.log := by
  obtain ⟨b, u, hu, hk⟩ := andThen_eq_next h
  obtain ⟨w, hw, rfl⟩ := withTurn_eq_next hu
  cases hk
  rw [goto_log, setResL, setLatches_log, ecAdvance_log, readPort_frame hw]

theorem readPollStep_log {ctx : Ctx} {f : Flag} {e : Bool} {after : Hs} {m : Bool} {s t : State} {p : Progress}
    (h : readPollStep ctx f e after m s = .next (p, t)) : t.log = s.log := by
  obtain ⟨r, u, hu, hk⟩ := andThen_eq_next h
  obtain ⟨-, hlog, -⟩ := pollOnce_frame hu
  cases r with
  | hit => cases hk; rw [goto_log, hlog]
  | miss => cases hk; exact hlog
  | timeout =>
    dsimp only at hk
    split at hk <;> cases hk
    · rw [setLate, setLatches_log, hlog]
    · rw [goto_log, hlog]

/-- A wait of a read logs its timeout at most (R118). -/
theorem readWaitStep_ordinary {ctx : Ctx} {f : Flag} {e : Bool} {after : Hs} {m : Bool} {s t : State} {p : Progress}
    (h : readWaitStep ctx f e after m s = .next (p, t)) : Ordinary s t := by
  have htaken := (readWaitStep_frame h).guardTaken_kept
  unfold readWaitStep at h
  split at h
  · cases h
    exact .event htaken (goto_log _ _ _) Event.noConfusion
  · exact .silent htaken (readPollStep_log h)

theorem handshakeStep_ordinary {ctx : Ctx} {s t : State} {p : Progress} (h : handshakeStep ctx s = .next (p, t)) :
    Ordinary s t := by
  obtain ⟨hf, hwrite⟩ := handshakeStep_frame h
  have htaken := hf.guardTaken_kept
  cases he : (latches ctx s).hs <;> simp only [handshakeStep, he] at h
  case rWait1 | rWait2 | rWait3 => exact readWaitStep_ordinary h
  case rCmd | rAddr => exact .silent htaken (sendStep_log h)
  case rData => exact .silent htaken (dataStep_log h)
  all_goals exact .silent htaken (hwrite (by rw [he]; rfl)).1

/-! ## The steps of a mode -/

theorem headStep_ordinary (s : State) : Ordinary s (headStep s) := by
  unfold headStep
  split <;> exact .silent rfl rfl

theorem snapStep_ordinary (s : State) : Ordinary s (snapStep s) := by
  have htaken : (snapRead s).2.guardTaken = s.guardTaken := by rw [snapRead_frame]
  have hlog : (snapRead s).2.log = s.log := by rw [snapRead_frame]
  unfold snapStep
  split
  all_goals
    rename_i h
    rw [h] at htaken hlog
    exact .silent htaken hlog

theorem snapFailedStep_ordinary (e : SnapFailure) (s : State) : Ordinary s (snapFailedStep e s) := by
  cases e <;> exact .event rfl rfl Event.noConfusion

theorem decideStep_ordinary (s : State) : Ordinary s (decideStep s) := by
  unfold decideStep
  split
  · exact .silent rfl rfl
  · split <;> exact .silent rfl rfl

theorem oneShotDecodeStep_ordinary (f : Field) (s : State) : Ordinary s (oneShotDecodeStep f s) := by
  cases f <;> exact .silent rfl rfl

/-- A step of a table, and a position of the mode after it that changes neither the guard's registers nor the
log. -/
theorem Ordinary.handshake {ctx : Ctx} {k : Progress → State → Res Unit} {s t : State}
    (hk : ∀ p u, k p u = .next ((), t) → t.guardTaken = u.guardTaken ∧ t.log = u.log)
    (h : andThen (handshakeStep ctx s) k = .next ((), t)) : Ordinary s t := by
  obtain ⟨p, u, hu, hrest⟩ := andThen_eq_next h
  obtain ⟨htaken, hlog⟩ := hk p u hrest
  obtain ⟨htaken', hlog'⟩ := handshakeStep_ordinary hu
  exact ⟨htaken.trans htaken', hlog ▸ hlog'⟩

/-- A step of a mode at its duty write is ordinary. -/
theorem writeStep_ordinary {d : Duty} {ok : Phase} {bad : TimeoutInfo → Phase} {s t : State}
    (h : writeStep d ok bad s = .next ((), t)) : Ordinary s t := by
  unfold writeStep at h
  split at h
  · cases h
    exact .silent rfl rfl
  · exact .handshake (fun p u hk => by cases p <;> cases hk <;> exact ⟨rfl, rfl⟩) h

theorem oneShotPollStep_ordinary {r : Polled} {s t : State} (h : oneShotPollStep r s = .next ((), t)) :
    Ordinary s t := by
  have hpoll := Ordinary.handshake (fun p u hk => by cases p <;> cases r <;> cases hk <;> exact ⟨rfl, rfl⟩) h
  split at hpoll <;> exact ⟨hpoll.taken, hpoll.log⟩

/-- A step inside a mode is ordinary: by its position. -/
theorem phaseStep_ordinary {s t : State} (h : phaseStep s = .next ((), t)) : Ordinary s t := by
  cases hp : s.phase <;> simp only [phaseStep, hp] at h
  case lWrite => exact writeStep_ordinary ((loopWriteStep_eq s).symm.trans h)
  case osWrite => exact writeStep_ordinary ((oneShotWriteStep_eq s).symm.trans h)
  case osPoll r => exact oneShotPollStep_ordinary h
  all_goals cases h
  case lHead => exact (headStep_ordinary s).turn
  case lSnap => exact (snapStep_ordinary s).turn
  case lSnapFailed e => exact (snapFailedStep_ordinary e s).turn
  case lDecide => exact (decideStep_ordinary s).turn
  case osDecode f => exact (oneShotDecodeStep_ordinary f s).turn
  case lWritten | lWriteFailed | osFailed | osDump => exact .event rfl rfl Event.noConfusion
  case entry | lDecode | lSleep => exact .silent rfl rfl

/-- A step of the guard's handler is ordinary. -/
theorem guardStep_ordinary {pos : GuardPos} {s t : State} (h : guardStep pos s = .next ((), t)) : Ordinary s t := by
  cases pos with
  | clear => cases h; exact .silent rfl rfl
  | failed i =>
    cases h
    have hlog : (guardFailedStep i s).log = s.log ++ [.timeoutLogged .guard i] := by simp [guardFailedStep, fatal]
    exact .event (by simp [guardFailedStep, fatal]) hlog Event.noConfusion
  | write =>
    simp only [guardStep] at h
    split at h
    · cases h
      exact .silent rfl rfl
    · exact .handshake (fun p u hk => by cases p <;> cases hk <;> exact ⟨rfl, rfl⟩) h

/-! ## Steps of MAIN and of the sequencers -/

theorem mainStep_start {s t : State} (ht : s.top = .start) (h : mainStep s = .next ((), t)) :
    t = ecAdvance (takeCommand (decodeInvocation s.invocation) s).2 := by
  simp only [mainStep, ht] at h
  cases h
  rfl

theorem mainStep_ordinary {s t : State} (hstart : s.top ≠ .start) (h : mainStep s = .next ((), t)) : Ordinary s t := by
  by_cases hexit : s.top = .exit
  · simp [mainStep, hexit] at h
  · exact phaseStep_ordinary ((mainStep_mode hstart hexit).symm.trans h)

theorem takeCommand_guardTaken (c : HostCommand) (s : State) : (takeCommand c s).2.guardTaken = s.guardTaken := by
  by_cases hc : c = .invalid
  · subst hc
    rfl
  · cases hp : s.priv with
    | false => rw [takeCommand_denied hc hp]; rfl
    | true => rw [takeCommand_ok hc hp]

/-- MAIN never takes the guard (R211). -/
theorem mainStep_guardTaken {s t : State} (h : mainStep s = .next ((), t)) : t.guardTaken = s.guardTaken := by
  by_cases hstart : s.top = .start
  · rw [mainStep_start hstart h]
    exact takeCommand_guardTaken _ s
  · exact (mainStep_ordinary hstart h).taken

/-- A step of the sequencers is one of the guard's handler, entered or not, or one of MAIN, a stop request asked
for or not. -/
theorem sequencerStep_eq_next {s t : State} (h : sequencerStep s = .next ((), t)) :
    (∃ pos u, guardStep pos u = .next ((), t) ∧ u.log = s.log) ∨
    ∃ u, mainStep u = .next ((), t) ∧ (u = s ∨ u = (drawStop s).2) := by
  have boundary : boundaryStep s = .next ((), t) →
      (∃ pos u, guardStep pos u = .next ((), t) ∧ u.log = s.log) ∨
      ∃ u, mainStep u = .next ((), t) ∧ (u = s ∨ u = (drawStop s).2) := by
    intro h
    unfold boundaryStep at h
    dsimp only at h
    split at h
    · exact .inr ⟨_, h, .inr rfl⟩
    · split at h
      · exact .inr ⟨_, h, .inr rfl⟩
      · exact .inl ⟨_, _, h, rfl⟩
  cases hg : s.g <;> simp only [sequencerStep, hg] at h
  case active pos => exact .inl ⟨pos, s, h, rfl⟩
  case idle | done =>
    split at h
    · exact boundary h
    · exact .inr ⟨s, h, .inl rfl⟩

/-! ## The entry into the guard (O50) -/

theorem step_boundary {s : State} (hissue : s.issue = none) (hg : s.g = .idle) (hstop : stopAcceptable s = true) :
    step s = forget (boundaryStep s) := by
  have ht : s.top ≠ .exit := fun he => by simp [stopAcceptable, he] at hstop
  simp only [step_sequencer ht hissue, sequencerStep, hg, hstop, if_true]

/-- Settles O50: at such a boundary the request drawn is the scripted one, and MAIN's step decides. -/
theorem guardEntersAtAnyBoundary : Obligations.GuardEntersAtAnyBoundary := by
  intro s signal rest ht hissue harmed htaken hg hstops u
  have hdraw : drawStop s = (some signal, u) := by simp only [drawStop, hstops]; rfl
  have hstep : step s =
      forget (if writesExit (mainStep u) then mainStep u else guardStep .clear (enterGuard u)) := by
    rw [step_boundary hissue hg (stopAcceptable_armed ht harmed htaken), boundaryStep, hdraw]
  refine ⟨fun hmain => ?_, fun hmain => ?_⟩
  · rw [hstep, hmain, if_neg Bool.false_ne_true]
    rfl
  · cases hnext : mainStep u with
    | next x =>
      obtain ⟨_, t⟩ := x
      rw [hnext] at hmain hstep
      exact ⟨t, rfl, by rw [hstep, hmain]; rfl, of_decide_eq_true hmain, (mainStep_guardTaken hnext).trans htaken⟩
    | fault e => rw [hnext] at hmain; cases hmain
    | refused e => rw [hnext] at hmain; cases hmain

/-! ## The refused commands (O36, O37) -/

/-- Settles O37: `INVALID` is refused before the privilege is looked at (R171). -/
theorem invalidCommandIsRefused : Obligations.InvalidCommandIsRefused := by
  intro s ht
  exact exec_refused ht (takeCommand_invalid s)

/-- A command without privilege is refused as a whole (R201). -/
theorem exec_denied {c : HostCommand} {s : State} (ht : s.top ≠ .exit) (hp : s.priv = false) (hc : c ≠ .invalid) :
    exec c.instr s = .next { ecAdvance (fatal .permissionDenied s) with ret := .err .permission } :=
  exec_refused ht (takeCommand_denied hc hp)

/-- The answer is not the error of `ACQUIRE`. -/
def NotDenied (r : Res Ret) : Prop := ∀ t, r ≠ .next (.err .permission, t)

theorem NotDenied.next {r : Ret} (t : State) (h : r ≠ .err .permission) : NotDenied (.next (r, t)) := by
  intro u hu
  cases hu
  exact h rfl

theorem NotDenied.andThen {α : Type} {r : Res α} {f : α → State → Res Ret} (h : ∀ a t, NotDenied (f a t)) :
    NotDenied (Machine.andThen r f) := by
  intro u hu
  obtain ⟨a, t, -, hk⟩ := andThen_eq_next hu
  exact h a t u hk

theorem retOf_ne_denied (failed : Option TimeoutInfo) : retOf failed ≠ .err .permission := by
  cases failed <;> exact nofun

theorem reportAndExit_notDenied (s : State) : NotDenied (reportAndExit s) :=
  .andThen fun x t => by cases x <;> exact .next _ nofun

theorem runDump_notDenied {s : State} (hp : s.priv = true) : NotDenied (runDump s) := by
  rw [runDump_entered hp]
  exact reportAndExit_notDenied _

theorem runSetduty_notDenied {s : State} (n : Duty) (hp : s.priv = true) : NotDenied (runSetduty n s) := by
  rw [runSetduty_entered n hp]
  refine .andThen fun x t => ?_
  cases x with
  | ok _ => exact reportAndExit_notDenied t
  | error i => exact .next _ nofun

theorem runAuto_notDenied {s : State} (hp : s.priv = true) : NotDenied (runAuto s) := by
  rw [runAuto, takeCommand_ok HostCommand.noConfusion hp]
  exact .next _ nofun

theorem acquire_notDenied {s : State} (hp : s.priv = true) : NotDenied (operation .acquire s) := by
  rw [operation, acquire_ok hp]
  exact .next _ nofun

theorem dutyWrite_notDenied (p : Int) (s : State) : NotDenied (operation (.dutyWrite p) s) := by
  rw [operation, dutyWrite]
  split
  · rw [andThen_assoc]
    exact .andThen fun x t => .next _ (by rw [retUnit_mapError]; exact retOf_ne_denied _)
  · exact .next _ nofun

theorem snapRead_notDenied (s : State) : NotDenied (operation .snapRead s) := by
  rw [operation]
  split
  · exact .next _ nofun
  · rename_i e t _
    exact .next _ (by cases e <;> exact nofun)

theorem stopRequest_notDenied (s : State) : NotDenied (stopRequest s) := by
  cases h : stopAcceptable s with
  | true => rw [stopRequest_accepted h]; exact .andThen fun x t => .next _ (retOf_ne_denied _)
  | false => rw [stopRequest_refused h]; exact .next _ nofun

/-- The operations that begin with `ACQUIRE` (R100, R170). -/
def Acquires (i : Instr) : Prop := i = .acquire ∨ i = .dump ∨ i = .auto ∨ ∃ n, i = .setduty n

/-- The error comes from `ACQUIRE` and the commands that begin with it, without privilege only (R201). -/
theorem operation_notDenied {i : Instr} {s : State} (h : Acquires i → s.priv = true) : NotDenied (operation i s) := by
  cases i with
  | acquire => exact acquire_notDenied (h (.inl rfl))
  | dump => exact runDump_notDenied (h (.inr (.inl rfl)))
  | auto => exact runAuto_notDenied (h (.inr (.inr (.inl rfl))))
  | setduty n => exact runSetduty_notDenied n (h (.inr (.inr (.inr ⟨n, rfl⟩))))
  | dutyWrite p => exact dutyWrite_notDenied p s
  | snapRead => exact snapRead_notDenied s
  | guard signal => exact stopRequest_notDenied s
  | waitfor | ecWrite => exact .andThen fun x t => .next _ (by rw [retUnit_mapError]; exact retOf_ne_denied _)
  | ecRead | polledSnapshot => exact .andThen fun x t => by cases x <;> exact .next _ nofun
  | portIn | portOut | tick => exact .andThen fun _ _ => .next _ nofun
  | invalid | dutyDec | dutyEnc | rpmDec | tempDec | snapDecode | identifyDuty | threshold | nextDuty =>
    exact .next _ nofun

theorem exec_denied_cases {i : Instr} {s t : State} (h : exec i s = .next t) (hret : t.ret = .err .permission) :
    s.priv = false ∧ Acquires i := by
  obtain ⟨-, r, u, hop, rfl⟩ := exec_eq_next h
  obtain rfl : r = .err .permission := hret
  by_contra hnot
  exact operation_notDenied (fun hi => (Bool.eq_false_or_eq_true _).resolve_right fun hp => hnot ⟨hp, hi⟩) u hop

/-! ## The denial in the log (O36) -/

/-- Start-up logs a denial without privilege only, and makes no access (R201). -/
theorem startStep_denied {s t : State} {evs : List Event} (ht : s.top = .start) (h : mainStep s = .next ((), t))
    (hlog : t.log = s.log ++ evs) (hmem : .permissionDenied ∈ evs) : s.priv = false ∧ t.trace = s.trace := by
  rw [mainStep_start ht h] at hlog ⊢
  by_cases hc : decodeInvocation s.invocation = .invalid
  · rw [hc, takeCommand_invalid] at hlog
    obtain rfl := List.append_cancel_left hlog
    simp at hmem
  · cases hp : s.priv with
    | false => rw [takeCommand_denied hc hp]; exact ⟨rfl, rfl⟩
    | true =>
      rw [takeCommand_ok hc hp] at hlog
      obtain rfl := List.self_eq_append_right.mp hlog
      cases hmem

theorem mainStep_denied {s t : State} {evs : List Event} (h : mainStep s = .next ((), t))
    (hlog : t.log = s.log ++ evs) (hmem : .permissionDenied ∈ evs) :
    s.top = .start ∧ s.priv = false ∧ t.trace = s.trace := by
  by_cases hstart : s.top = .start
  · exact ⟨hstart, startStep_denied hstart h hlog hmem⟩
  · exact absurd hmem ((mainStep_ordinary hstart h).not_denied hlog)

theorem step_denied {s t : State} {evs : List Event} (hissue : s.issue = none) (h : step s = .next t)
    (hlog : t.log = s.log ++ evs) (hmem : .permissionDenied ∈ evs) :
    s.top = .start ∧ s.priv = false ∧ t.trace = s.trace := by
  obtain ⟨-, ⟨bs, i, rest, hbs, -, -⟩ | ⟨-, hseq⟩⟩ := step_eq_next h
  · rw [hissue] at hbs; cases hbs
  · obtain ⟨pos, u, hu, hkept⟩ | ⟨u, hu, rfl | rfl⟩ := sequencerStep_eq_next hseq
    · exact absurd hmem ((guardStep_ordinary hu).not_denied (hkept ▸ hlog))
    · exact mainStep_denied hu hlog hmem
    · exact mainStep_denied (s := (drawStop s).2) hu hlog hmem

/-- Settles O36: the denied commands, the operations that raise the error, and the step that logs it. -/
theorem noPrivilegeEndsTheRun : Obligations.NoPrivilegeEndsTheRun := by
  refine ⟨fun s i ht hp hi => ?_, fun s t i => exec_denied_cases, fun s t evs => step_denied⟩
  obtain rfl | rfl | ⟨n, rfl⟩ := hi
  · exact exec_denied (c := .dump) ht hp HostCommand.noConfusion
  · exact exec_denied (c := .auto) ht hp HostCommand.noConfusion
  · exact exec_denied (c := .setduty n) ht hp HostCommand.noConfusion

end Sys2Proof.Machine
end
